-- ==== Sys2Proof/Word.lean ====
section
/-! DEFINITION. The word types of the CRC-32 core and the transfer unit of its command port. -/

namespace Sys2Proof

/-- A 32-bit unsigned value: R, DOUT, STATUS, GW, a table entry, CMD or DIN (rules R8 and R10). -/
abbrev Word := BitVec 32

/-- An 8-bit value: an input byte or a table index (rules R35 and R62). -/
abbrev Byte := BitVec 8

/-- One indivisible transfer of the host: a command word with its data word (rules R23 and R45). -/
structure Command where
  /-- The command word CMD. -/
  cmd : Word
  /-- The data word DIN. -/
  din : Word
  deriving DecidableEq, Repr

end Sys2Proof
end

