-- ==== Sys2Proof/Syntax.lean ====
section
/-! DEFINITION. The commands of CRC32-CMD version 1: one constructor per row of spec/opcode_table.json. -/

namespace Sys2Proof

/-- A legal command with its operands (rules R61 to R63). DIN is an operand only of LOAD and UPDW
(rule R45); every other command ignores it, so it is no part of its syntax. -/
inductive Instr where
  /-- NOP, OP 0x00 (rule R125). -/
  | nop
  /-- TGEN, OP 0x01: rebuild the table (rule R86). -/
  | tgen
  /-- INIT, OP 0x02: begin a fresh computation (rule R120). -/
  | init
  /-- LOAD, OP 0x03: set R to DIN (rule R121). -/
  | load (din : Word)
  /-- UPD, OP 0x04: consume the byte IMM8 (rule R104). -/
  | upd (b : Byte)
  /-- UPDW, OP 0x05: consume CNT + 1 bytes of DIN (rule R105). -/
  | updw (cnt : BitVec 2) (din : Word)
  /-- RDRAW, OP 0x06: return the raw register (rule R122). -/
  | rdraw
  /-- RDFIN, OP 0x07: return the finalized checksum (rule R123). -/
  | rdfin
  /-- RDTAB, OP 0x08: read one table entry (rule R124). -/
  | rdtab (idx : Byte)
  deriving DecidableEq, Repr

end Sys2Proof
end

