-- ==== Sys2Proof/WellFormed.lean ====
section
/-! DEFINITION. Which command words are legal, in the match and mask terms of spec/opcode_table.json, and
which instructions are well formed. -/

namespace Sys2Proof

/-- One row of the opcode table (rule R63). -/
structure OpRow where
  mnemonic : String
  /-- The fixed bits of the word. -/
  pattern : Word
  /-- Which bits are fixed. -/
  mask : Word
  deriving DecidableEq, Repr

/-- spec/opcode_table.json, row by row. -/
def opcodeTable : List OpRow :=
  [ ⟨"NOP",   0x00000000#32, 0xFFFFFFFF#32⟩,
    ⟨"TGEN",  0x01000000#32, 0xFFFFFFFF#32⟩,
    ⟨"INIT",  0x02000000#32, 0xFFFFFFFF#32⟩,
    ⟨"LOAD",  0x03000000#32, 0xFFFFFFFF#32⟩,
    ⟨"UPD",   0x04000000#32, 0xFFFFFF00#32⟩,
    ⟨"UPDW",  0x05000000#32, 0xFFFFFFFC#32⟩,
    ⟨"RDRAW", 0x06000000#32, 0xFFFFFFFF#32⟩,
    ⟨"RDFIN", 0x07000000#32, 0xFFFFFFFF#32⟩,
    ⟨"RDTAB", 0x08000000#32, 0xFFFFFF00#32⟩ ]

/-- The word has the row's fixed bits: `(CMD AND mask) == match` (rule R63). -/
def OpRow.matches (row : OpRow) (cmd : Word) : Bool := cmd &&& row.mask == row.pattern

/-- How many rows of the opcode table a command word matches. -/
def matchCount (cmd : Word) : Nat := (opcodeTable.filter (·.matches cmd)).length

/-- A command word is legal when exactly one row matches it (rule R63). -/
def legalWord (cmd : Word) : Bool := matchCount cmd == 1

/-- Well-formedness of an instruction. The operand types hold exactly the values the encoding admits, and
every one of them is legal (rules R46 and R162), so each constructor is well formed as it stands. -/
def Instr.wellFormed : Instr → Bool
  | .nop => true
  | .tgen => true
  | .init => true
  | .load _ => true
  | .upd _ => true
  | .updw _ _ => true
  | .rdraw => true
  | .rdfin => true
  | .rdtab _ => true

end Sys2Proof
end

