-- ==== Sys2Proof/Decode.lean ====
section
/-! DEFINITION. Decoding a command, total on every 32-bit CMD (rule R64), and the encoder (rules R61, R63
and R67). -/

namespace Sys2Proof

/-- The causes of IllegalCommand (rule R160). -/
inductive Cause where
  /-- `CMD[31:24] > 0x08`, code 1. -/
  | illegalOpcode
  /-- A legal OP with a non-zero bit in its ZERO field, code 2. -/
  | reservedField
  deriving DecidableEq, Repr

/-- What a command decodes to. -/
inductive Decoded where
  /-- The word names this command. -/
  | command (i : Instr)
  /-- The word encodes nothing: IllegalCommand with this cause. -/
  | illegal (cause : Cause)
  deriving DecidableEq, Repr

/-- OP, `CMD[31:24]` (rule R61). -/
def opField (cmd : Word) : BitVec 8 := cmd.extractLsb' 24 8

/-- IMM8, `CMD[7:0]`, of format B (rules R61 and R62). -/
def imm8Field (cmd : Word) : Byte := cmd.extractLsb' 0 8

/-- CNT, `CMD[1:0]`, of format W (rules R61 and R62). -/
def cntField (cmd : Word) : BitVec 2 := cmd.extractLsb' 0 2

/-- ZERO24, `CMD[23:0]`, of format N (rule R61). -/
def zero24Field (cmd : Word) : BitVec 24 := cmd.extractLsb' 0 24

/-- ZERO16, `CMD[23:8]`, of format B (rule R61). -/
def zero16Field (cmd : Word) : BitVec 16 := cmd.extractLsb' 8 16

/-- ZERO22, `CMD[23:2]`, of format W (rule R61). -/
def zero22Field (cmd : Word) : BitVec 22 := cmd.extractLsb' 2 22

/-- A format N word: legal when ZERO24 is zero (rule R64). -/
def decodeN (cmd : Word) (i : Instr) : Decoded :=
  if zero24Field cmd = 0 then .command i else .illegal .reservedField

/-- A format B word: legal when ZERO16 is zero (rule R64). -/
def decodeB (cmd : Word) (mk : Byte → Instr) : Decoded :=
  if zero16Field cmd = 0 then .command (mk (imm8Field cmd)) else .illegal .reservedField

/-- A format W word: legal when ZERO22 is zero (rule R64). -/
def decodeW (cmd : Word) (mk : BitVec 2 → Instr) : Decoded :=
  if zero22Field cmd = 0 then .command (mk (cntField cmd)) else .illegal .reservedField

/-- The decode function (rule R64). The opcode check comes first (rule R163). -/
def decode (c : Command) : Decoded :=
  match (opField c.cmd).toNat with
  | 0x00 => decodeN c.cmd .nop
  | 0x01 => decodeN c.cmd .tgen
  | 0x02 => decodeN c.cmd .init
  | 0x03 => decodeN c.cmd (.load c.din)
  | 0x04 => decodeB c.cmd .upd
  | 0x05 => decodeW c.cmd (.updw · c.din)
  | 0x06 => decodeN c.cmd .rdraw
  | 0x07 => decodeN c.cmd .rdfin
  | 0x08 => decodeB c.cmd .rdtab
  | _ => .illegal .illegalOpcode

/-- The instruction of a command, where it has one. -/
def Decoded.instr? : Decoded → Option Instr
  | .command i => some i
  | .illegal _ => none

/-- The command of an instruction (rules R61, R63 and R67). Where DIN is ignored it is 0, as the assembler
of rule R67 sets it (log 16). -/
def encode : Instr → Command
  | .nop => ⟨0x00000000#32, 0#32⟩
  | .tgen => ⟨0x01000000#32, 0#32⟩
  | .init => ⟨0x02000000#32, 0#32⟩
  | .load din => ⟨0x03000000#32, din⟩
  | .upd b => ⟨0x04000000#32 ||| b.setWidth 32, 0#32⟩
  | .updw cnt din => ⟨0x05000000#32 ||| cnt.setWidth 32, din⟩
  | .rdraw => ⟨0x06000000#32, 0#32⟩
  | .rdfin => ⟨0x07000000#32, 0#32⟩
  | .rdtab idx => ⟨0x08000000#32 ||| idx.setWidth 32, 0#32⟩

/-- The command whose bits are `w`, numbered as spec/opcode_table.json numbers them: bits 31:0 are CMD and
the bits above are DIN, which the table gives no bits (log 8). Bits above `nbits` are 0. -/
def tableCommand (nbits w : Nat) : Command :=
  ⟨BitVec.ofNat 32 (w % 2 ^ nbits), BitVec.ofNat 32 ((w % 2 ^ nbits) / 2 ^ 32)⟩

/-- What the decoder reads from the table word `w` of `nbits` bits. -/
def decodeTableWord (nbits w : Nat) : Option Instr := (decode (tableCommand nbits w)).instr?

end Sys2Proof
end

