-- ==== Sys2Proof/Config.lean ====
section
/-! DEFINITION. What the source fixes for every block, the parameters of the spec, and the free values. -/

namespace Sys2Proof

/-- The values of the parameter TABLE_INIT (rule R9). -/
inductive TableInit where
  /-- The table generator fills the table after reset and on TGEN (rule R83). -/
  | generate
  /-- The table is a constant, valid from reset (rule R85). -/
  | rom
  deriving DecidableEq, Repr

/-- The reflected polynomial POLY (rules R3, R8 and R80). -/
def Config.poly : Word := 0xEDB88320#32

/-- The sentinel initial value of the CRC register (rules R3, R8, R21 and R120). -/
def Config.initialR : Word := 0xFFFFFFFF#32

/-- The final XOR value (rules R3, R8 and R103). -/
def Config.xorOut : Word := 0xFFFFFFFF#32

/-- The default of TABLE_INIT (rule R9), taken by the state after reset (log 1). -/
def Config.defaultTableInit : TableInit := .generate

/-- FREE VALUE: entry `i` of the table after the reset numbered `draw`, before the first generation
completes; the spec leaves it unspecified (rule R36, rule R180, 93_implementation_defined.md I2). Log 2. -/
opaque Config.tableAtReset (draw : Nat) (i : Byte) : Word

/-- OPEN parameter T_GEN, the time of one generation: a positive natural, or `none` for "unbounded". Read
by no rule (rules R9 and R190). Log 13. -/
opaque Config.tGen : Option ℕ+

/-- OPEN parameter T_CMD, the time of one command: a positive natural. Read by no rule (rules R9 and R190).
Log 13. -/
opaque Config.tCmd : ℕ+

/-- OPEN parameter CRC_BASE, the block's platform address where it has one. Read by no rule (rule R50).
Log 13. -/
opaque Config.crcBase : Option Nat

end Sys2Proof
end

