-- ==== Sys2Proof/Machine/Crc.lean ====
section
/-! DEFINITION. The pure functions of the CRC (rule R13): GENSTEP, TABLE, UPDATE, UPDATE* and FINAL. -/

namespace Sys2Proof.Machine

/-- GENSTEP, one bit-iteration of the table algorithm (rule R81): the shift comes before the XOR. -/
def genStep (w : Word) : Word :=
  if w.getLsbD 0 then (w >>> 1) ^^^ Config.poly else w >>> 1

/-- GENSTEP applied `n` times. -/
def genSteps : Nat → Word → Word
  | 0, w => w
  | n + 1, w => genStep (genSteps n w)

/-- TABLE(i): GENSTEP applied exactly 8 times to the zero-extended index (rule R82). -/
def tableEntry (i : Byte) : Word := genSteps 8 (i.setWidth 32)

/-- The whole table, T[i] = TABLE(i) for i in 0..255 (rules R35 and R82). -/
def crcTable : Vector Word 256 :=
  ⟨⟨(List.range 256).map fun i => tableEntry (BitVec.ofNat 8 i)⟩, by simp⟩

/-- The index of the core update step, `(r XOR zext_32(b)) AND 0x000000FF` as 8 bits (rule R101). -/
def updateIndex (r : Word) (b : Byte) : Byte :=
  ((r ^^^ b.setWidth 32) &&& 0x000000FF#32).setWidth 8

/-- The core update step over a table given by its reader (rule R101): the block reads T, the pure
function reads TABLE. -/
def updateVia (look : Byte → Word) (r : Word) (b : Byte) : Word :=
  look (updateIndex r b) ^^^ (r >>> 8)

/-- The core update step folded over a byte sequence, in order (rule R102). -/
def updatesVia (look : Byte → Word) : Word → List Byte → Word
  | r, [] => r
  | r, b :: s => updatesVia look (updateVia look r b) s

/-- UPDATE(r, b), the core update step (rule R101). -/
def crcUpdate (r : Word) (b : Byte) : Word := updateVia tableEntry r b

/-- UPDATE*(r, s) (rule R102). -/
def crcUpdates (r : Word) (s : List Byte) : Word := updatesVia tableEntry r s

/-- FINAL(r), the final complement (rule R103). -/
def crcFinal (r : Word) : Word := r ^^^ Config.xorOut

/-- T right after a reset (rule R180): the constant table if ROM; unspecified if GENERATE, so each entry
is a free value of this draw (log 2). -/
def tableOnReset : TableInit → Nat → Vector Word 256
  | .rom, _ => crcTable
  | .generate, draw =>
    ⟨⟨(List.range 256).map fun i => Config.tableAtReset draw (BitVec.ofNat 8 i)⟩, by simp⟩

end Sys2Proof.Machine
end

