-- ==== Sys2Proof/Machine/State.lean ====
section
/-! DEFINITION. The state of the CRC-32 core, why a step can stop, and the state after reset. -/

namespace Sys2Proof.Machine

/-- One entry of the script: a coming action of the host, or the turn of an agent. The order of agents is
free (rule R164), so it is data (log 4). -/
inductive Event where
  /-- The host asserts reset (rule R180). -/
  | reset
  /-- The host presents a command (rule R185). It waits while an earlier one is not accepted (rule R25). -/
  | present (c : Command)
  /-- The command engine has the turn (rule R7). -/
  | engine
  /-- The table generator has the turn (rule R84). -/
  | generator
  /-- Nothing moves (rule R173). -/
  | idle
  deriving DecidableEq, Repr

/-- Every piece of state the spec gives the block, then the model's own two fields. -/
structure State where
  /-- R, the CRC register (rule R20). -/
  r : Word
  /-- DOUT, the output register (rule R22). -/
  dout : Word
  /-- STATUS.TVALID (rule R31). -/
  tvalid : Bool
  /-- STATUS.ERR (rule R32). -/
  err : Bool
  /-- STATUS.ECAUSE (rule R33). -/
  ecause : BitVec 4
  /-- T, the lookup table (rule R35). -/
  table : Vector Word 256
  /-- GEN_ACTIVE, a generation is in progress (rule R37). -/
  genActive : Bool
  /-- GI, the index of the entry being built (rule R37). -/
  gi : BitVec 8
  /-- GK, the number of bit-iterations done on that entry (rule R37). -/
  gk : BitVec 4
  /-- GW, the working value (rule R37). -/
  gw : Word
  /-- The head command, presented and not yet accepted (rule R25). -/
  head : Option Command
  /-- The parameter TABLE_INIT, which nothing changes (rule R9, log 1). -/
  tableInit : TableInit
  /-- The model's own: what the host does next and which agent has the turn (log 4). -/
  script : List Event
  /-- The model's own: the number of the reset that drew the table's contents (log 3). -/
  draws : Nat
  deriving DecidableEq, Repr

/-- Faults that stop the machine: there are none. The algorithm is total (rule R162), and an
IllegalCommand is recorded and does not stop the block (rule R161), so nothing raises one. Safe: no
behaviour of the block is cut off (log 9). -/
inductive Fault where
  deriving DecidableEq, Repr

/-- Why a step has no meaning. -/
inductive Refusal where
  /-- Raised by an arm of `exec` that has no meaning yet: no arm of this model. Safe: a refused step proves
  nothing about a next state (log 9). -/
  | notModelled (mnemonic : String)
  deriving DecidableEq, Repr

/-- Every piece of state after a reset (rule R180), for either value of TABLE_INIT. -/
def State.resetOf (init : TableInit) (draw : Nat) : State where
  r := Config.initialR
  dout := 0#32
  tvalid := init == .rom
  err := false
  ecause := 0#4
  table := tableOnReset init draw
  genActive := init == .generate
  gi := 0#8
  gk := 0#4
  gw := 0#32
  head := none
  tableInit := init
  script := []
  draws := draw

/-- The machine right after reset (rule R180), with TABLE_INIT at its default (rule R9, log 1). -/
def State.reset : State := State.resetOf Config.defaultTableInit 0

end Sys2Proof.Machine
end

