-- ==== Sys2Proof/Machine/Flags.lean ====
section
/-! DEFINITION. STATUS: the register the host reads, and what an error records in it (rules R30 to R34). -/

namespace Sys2Proof.Machine

/-- STATUS as the host reads it (rule R30): bit 0 TVALID, bit 1 ERR, bits 7:4 ECAUSE, every other bit
hardwired 0. Reading it has no side effect. -/
def State.status (s : State) : Word :=
  0#24 ++ s.ecause ++ 0#2 ++ BitVec.ofBool s.err ++ BitVec.ofBool s.tvalid

/-- The code of a cause in ECAUSE (rule R160). -/
def causeCode : Cause → BitVec 4
  | .illegalOpcode => 1#4
  | .reservedField => 2#4

/-- What an error records: the first since reset sets ERR and its cause, a later one changes nothing
(rules R32, R33 and R161). -/
def State.recordError (s : State) (cause : Cause) : State :=
  if s.err then s else { s with err := true, ecause := causeCode cause }

end Sys2Proof.Machine
end

