-- ==== Sys2Proof/Machine/Operands.lean ====
section
/-! DEFINITION. The operands of the commands (rule R62): the lanes of DIN and the bytes a command consumes. -/

namespace Sys2Proof.Machine

/-- Lane j of DIN, `DIN[8j+7:8j]` (rule R43). -/
def lane (din : Word) (j : Nat) : Byte := din.extractLsb' (8 * j) 8

/-- The byte count n = CNT + 1, from 1 to 4 (rule R62). -/
def byteCount (cnt : BitVec 2) : Nat := cnt.toNat + 1

/-- The bytes an UPDW consumes, lane 0 first (rules R43 and R105). -/
def laneBytes (cnt : BitVec 2) (din : Word) : List Byte :=
  (List.range (byteCount cnt)).map (lane din)

end Sys2Proof.Machine
end

