-- ==== Sys2Proof/Machine/Ops.lean ====
section
/-! DEFINITION. The named operations over the registers, the table and the command port. The block has no
memory (rule R40). -/

namespace Sys2Proof.Machine

/-- What a step of this machine answers. -/
abbrev Result := Host.Outcome State Fault Refusal

/-- The head command is consumed, and the place of the head is free for the next one (rule R25). -/
def State.accept (s : State) : State := { s with head := none }

/-- An accepted command's answer: its effect, with the command consumed in the same step (rule R48). -/
def accepted (s : State) : Result := .next s.accept

/-- `hold`: the command is not accepted in this step and stays at the head (rules R12 and R187). -/
def held (s : State) : Result := .next s

/-- `R <- v`. -/
def State.writeR (s : State) (v : Word) : State := { s with r := v }

/-- `DOUT <- v` (rule R22). -/
def State.writeDout (s : State) (v : Word) : State := { s with dout := v }

/-- `T[i]`: every index selects an entry (rule R46). -/
def State.readTable (s : State) (i : Byte) : Word := s.table[i.toNat]'(i.isLt)

/-- `T[i] <- v`, for the table generator only (rule R36). -/
def State.writeTable (s : State) (i : Byte) (v : Word) : State :=
  { s with table := s.table.set i.toNat v i.isLt }

/-- Starting a generation (rule R83). -/
def State.startGeneration (s : State) : State :=
  { s with genActive := true, tvalid := false, gi := 0#8, gk := 0#4, gw := 0#32 }

/-- `raise IllegalCommand(cause)`, the block's one exception (rule R161): the command is consumed and the
error recorded; no state is saved, no mode or program counter exists to change (rule R166), and nothing
returns from it but reset (rule R167). -/
def raiseIllegal (cause : Cause) (s : State) : Result := accepted (s.recordError cause)

end Sys2Proof.Machine
end

