-- ==== Sys2Proof/Machine/Generator.lean ====
section
/-! DEFINITION. The table generator agent and the TGEN command. -/

namespace Sys2Proof.Machine

/-- One step of the table generator (rule R84). It is enabled only while GEN_ACTIVE = 1; the right-hand
sides read the values from before the step. -/
def generatorStep (s : State) : State :=
  if s.genActive then
    if s.gk < 8#4 then
      { s with gw := genStep s.gw, gk := s.gk + 1#4 }
    else if s.gi = 255#8 then
      { s.writeTable s.gi s.gw with genActive := false, tvalid := true }
    else
      { s.writeTable s.gi s.gw with
        gi := s.gi + 1#8, gk := 0#4, gw := (s.gi + 1#8).setWidth 32 }
  else s

/-- `n` steps of the table generator, nothing else moving. -/
def generatorSteps : Nat → State → State
  | 0, s => s
  | n + 1, s => generatorSteps n (generatorStep s)

/-- Where a generation leaves the block after its last step (rule R84): the table is TABLE, TVALID is 1,
and GI, GK and GW keep what the last entry left in them. -/
def State.afterGeneration (s : State) : State :=
  { s with
    table := crcTable, tvalid := true, genActive := false,
    gi := 255#8, gk := 8#4, gw := tableEntry 255#8 }

/-- TGEN: rebuild the table (rule R86). -/
def execTgen (s : State) : Result :=
  if s.genActive then held s
  else match s.tableInit with
    | .generate => accepted s.startGeneration
    | .rom => accepted s

end Sys2Proof.Machine
end

