-- ==== Sys2Proof/Machine/Transfer.lean ====
section
/-! DEFINITION. Register initialisation, transfer, readout and NOP (rules R120 to R125). -/

namespace Sys2Proof.Machine

/-- NOP: no effect (rule R125). -/
def execNop (s : State) : Result := accepted s

/-- INIT: begin a fresh computation (rule R120). -/
def execInit (s : State) : Result := accepted (s.writeR Config.initialR)

/-- LOAD: set R to a continuation register; every value is accepted (rule R121). -/
def execLoad (din : Word) (s : State) : Result := accepted (s.writeR din)

/-- RDRAW: return the raw register (rule R122). -/
def execRdraw (s : State) : Result := accepted (s.writeDout s.r)

/-- RDFIN: return the finalized checksum; R is not written (rule R123). -/
def execRdfin (s : State) : Result := accepted (s.writeDout (crcFinal s.r))

/-- RDTAB: read one table entry, held while TVALID = 0 (rule R124). -/
def execRdtab (idx : Byte) (s : State) : Result :=
  if s.tvalid then accepted (s.writeDout (s.readTable idx)) else held s

end Sys2Proof.Machine
end

