-- ==== Sys2Proof/Machine/Update.lean ====
section
/-! DEFINITION. UPD and UPDW: the core update step on the block (rules R104 and R105). -/

namespace Sys2Proof.Machine

/-- The meaning shared by the commands that consume input bytes: held while TVALID = 0, otherwise one core
update step on R for each byte, in order, with one atomic write (rules R100, R105 and R187). -/
def consumeBytes (bytes : List Byte) (s : State) : Result :=
  if s.tvalid then accepted (s.writeR (updatesVia s.readTable s.r bytes)) else held s

/-- UPD: consume one input byte (rule R104). -/
def execUpd (b : Byte) (s : State) : Result := consumeBytes [b] s

/-- UPDW: consume one to four bytes of DIN, lane 0 first (rule R105). -/
def execUpdw (cnt : BitVec 2) (din : Word) (s : State) : Result :=
  consumeBytes (laneBytes cnt din) s

end Sys2Proof.Machine
end

