-- ==== Sys2Proof/Machine/Dispatch.lean ====
section
/-! DEFINITION. The dispatch of the instructions to their meanings. -/

namespace Sys2Proof.Machine

/-- What the engine does with the instruction at the head. -/
def exec (i : Instr) (s : State) : Host.Outcome State Fault Refusal :=
  match i with
  | .nop => Sys2Proof.Machine.execNop s
  | .tgen => Sys2Proof.Machine.execTgen s
  | .init => Sys2Proof.Machine.execInit s
  | .load din => Sys2Proof.Machine.execLoad din s
  | .upd b => Sys2Proof.Machine.execUpd b s
  | .updw cnt din => Sys2Proof.Machine.execUpdw cnt din s
  | .rdraw => Sys2Proof.Machine.execRdraw s
  | .rdfin => Sys2Proof.Machine.execRdfin s
  | .rdtab idx => Sys2Proof.Machine.execRdtab idx s

end Sys2Proof.Machine
end

