-- ==== Sys2Proof/Machine/Engine.lean ====
section
/-! DEFINITION. The command engine, the command port, the host's actions and the choice of who moves. -/

namespace Sys2Proof.Machine

/-- Does the hold rule hold this instruction in this state (rule R187)? TGEN tests GEN_ACTIVE, as its own
rule R86 does (log 10). -/
def State.holds (s : State) : Instr → Bool
  | .nop => false
  | .tgen => s.genActive
  | .init => false
  | .load _ => false
  | .upd _ => !s.tvalid
  | .updw _ _ => !s.tvalid
  | .rdraw => false
  | .rdfin => false
  | .rdtab _ => !s.tvalid

/-- Is this command held in this state? The legality check comes first: an illegal word is never held
(rule R163). -/
def State.holdsCommand (s : State) (c : Command) : Bool :=
  match decode c with
  | .command i => s.holds i
  | .illegal _ => false

/-- The engine executes this command: a legal one has its meaning, an illegal one raises IllegalCommand
(rules R64 and R161). -/
def execCommand (c : Command) (s : State) : Result :=
  match decode c with
  | .command i => exec i s
  | .illegal cause => raiseIllegal cause s

/-- The engine's turn: it executes the head command, and has no step without one (rules R25 and R173). -/
def engineStep (s : State) : Result :=
  match s.head with
  | some c => execCommand c s
  | none => .next s

/-- The host presents a command, which becomes the head (rules R25 and R185). -/
def State.present (s : State) (c : Command) : State := { s with head := some c }

/-- The host asserts reset (rule R180). The parameter stays, the host's further actions stay ahead, and the
table's contents are drawn anew (logs 2, 3 and 6). -/
def State.hostReset (s : State) : State :=
  { State.resetOf s.tableInit (s.draws + 1) with script := s.script }

/-- Who moves where the script gives nobody the turn (log 4): the engine if it can accept the head, else
the generator if it is active, else nobody. -/
def State.freeTurn (s : State) : Event :=
  match s.head with
  | some c =>
    if s.holdsCommand c then (if s.genActive then .generator else .idle) else .engine
  | none => if s.genActive then .generator else .idle

/-- The next move and the script after it. A command to present waits, and the block moves, while an
earlier command is not accepted (rules R25 and R185, log 5). -/
def State.nextMove (s : State) : Event × List Event :=
  match s.script with
  | [] => (s.freeTurn, [])
  | .present c :: rest =>
    match s.head with
    | none => (.present c, rest)
    | some _ => (s.freeTurn, .present c :: rest)
  | .reset :: rest => (.reset, rest)
  | .engine :: rest => (.engine, rest)
  | .generator :: rest => (.generator, rest)
  | .idle :: rest => (.idle, rest)

/-- One move. -/
def doMove (m : Event) (s : State) : Result :=
  match m with
  | .reset => .next s.hostReset
  | .present c => .next (s.present c)
  | .engine => engineStep s
  | .generator => .next (generatorStep s)
  | .idle => .next s

/-- The state with the script taken up to after the next move. -/
def State.withScript (s : State) (script : List Event) : State := { s with script := script }

/-- One step of the whole machine: the next move is made. -/
def machineStep (s : State) : Result := doMove s.nextMove.1 (s.withScript s.nextMove.2)

/-- The command placed so that the very next step executes it (log 7): it is presented, the engine has the
turn, and a generation it would be held behind has ended. -/
def State.placeCommand (s : State) (c : Command) : State :=
  { (if s.holdsCommand c then s.afterGeneration else s) with
    head := some c, script := .engine :: s.script }

end Sys2Proof.Machine
end

