-- ==== Sys2Proof/Machine/Step.lean ====
section
/-! DEFINITION. One step of the machine, and the placing of an instruction for the next one. -/

namespace Sys2Proof.Machine

/-- One step of the machine. -/
def step (s : State) : Host.Outcome State Fault Refusal := machineStep s

/-- The state whose very next step executes the instruction with these bits (log 7). -/
def State.withFetchWord (s : State) (nbits w : Nat) : State :=
  s.placeCommand (tableCommand nbits w)

end Sys2Proof.Machine
end

