-- ==== Sys2Proof/Machine/Assembler.lean ====
section
/-! DEFINITION. The assembler's syntax with its refusals (rule R67), and the pseudo-instructions (rule R68). -/

namespace Sys2Proof.Machine

/-- One line of assembly, its numbers as written (rule R67). -/
inductive Asm where
  | nop
  | tgen
  | init
  /-- `load <imm32>` -/
  | load (imm : Nat)
  /-- `upd <byte>` -/
  | upd (byte : Nat)
  /-- `updw <n>, <imm32>` -/
  | updw (n imm : Nat)
  | rdraw
  | rdfin
  /-- `rdtab <idx>` -/
  | rdtab (idx : Nat)
  /-- `.word <imm32>`, a raw command word. -/
  | word (imm : Nat)
  deriving DecidableEq, Repr

/-- The lines an assembler accepts (rule R67). The rule names the refusals for `load`, `upd`, `updw` counts
and `rdtab`; that the other 32-bit operands are bounded too is DEDUCED from their name imm32 (log 19). -/
def Asm.accepted : Asm → Bool
  | .nop => true
  | .tgen => true
  | .init => true
  | .load imm => imm ≤ 0xFFFFFFFF
  | .upd byte => byte ≤ 0xFF
  | .updw n imm => 1 ≤ n && n ≤ 4 && imm ≤ 0xFFFFFFFF
  | .rdraw => true
  | .rdfin => true
  | .rdtab idx => idx ≤ 0xFF
  | .word imm => imm ≤ 0xFFFFFFFF

/-- The CMD and DIN of a line (rule R67); where DIN is ignored it is 0. -/
def Asm.command : Asm → Command
  | .nop => ⟨0x00000000#32, 0#32⟩
  | .tgen => ⟨0x01000000#32, 0#32⟩
  | .init => ⟨0x02000000#32, 0#32⟩
  | .load imm => ⟨0x03000000#32, BitVec.ofNat 32 imm⟩
  | .upd byte => ⟨0x04000000#32 ||| BitVec.ofNat 32 byte, 0#32⟩
  | .updw n imm => ⟨0x05000000#32 ||| BitVec.ofNat 32 (n - 1), BitVec.ofNat 32 imm⟩
  | .rdraw => ⟨0x06000000#32, 0#32⟩
  | .rdfin => ⟨0x07000000#32, 0#32⟩
  | .rdtab idx => ⟨0x08000000#32 ||| BitVec.ofNat 32 idx, 0#32⟩
  | .word imm => ⟨BitVec.ofNat 32 imm, 0#32⟩

/-- Assembling a line: the command, or a refusal. -/
def assemble (line : Asm) : Option Command :=
  if line.accepted then some line.command else none

/-- Four bytes as a little-endian data word, the first in lane 0 (rules R43 and R68). -/
def packLanes (b0 b1 b2 b3 : Byte) : Word := b3 ++ b2 ++ b1 ++ b0

/-- The canonical expansion of `feed`: groups of four bytes, then a short group with its unused lanes 0
(rule R68). -/
def feed : List Byte → List Instr
  | b0 :: b1 :: b2 :: b3 :: rest => .updw 3#2 (packLanes b0 b1 b2 b3) :: feed rest
  | [b0, b1, b2] => [.updw 2#2 (packLanes b0 b1 b2 0#8)]
  | [b0, b1] => [.updw 1#2 (packLanes b0 b1 0#8 0#8)]
  | [b0] => [.updw 0#2 (packLanes b0 0#8 0#8 0#8)]
  | [] => []

/-- `crc.begin` (rule R68). -/
def crcBegin : List Instr := [.init]

/-- `crc.save` (rule R68). -/
def crcSave : List Instr := [.rdraw]

/-- `crc.restore <imm32>` (rule R68). -/
def crcRestore (token : Word) : List Instr := [.load token]

/-- `crc.compute [s]` over a given feeding of s: `init; feed s; rdfin` (rules R68 and R140). -/
def crcCompute (fed : List Instr) : List Instr := .init :: fed ++ [.rdfin]

/-- `crc.continue [s], <imm32>` over a given feeding of s: `load imm32; feed s; rdraw` (rules R68 and
R141). -/
def crcContinue (fed : List Instr) (token : Word) : List Instr := .load token :: fed ++ [.rdraw]

/-- Is this one of the commands that feed input bytes, UPD or UPDW (rule R100)? -/
def Instr.feeds : Instr → Bool
  | .upd _ => true
  | .updw _ _ => true
  | .nop => false
  | .tgen => false
  | .init => false
  | .load _ => false
  | .rdraw => false
  | .rdfin => false
  | .rdtab _ => false

/-- The input bytes a command consumes, in order (rules R42, R43 and R47). -/
def Instr.inputBytes : Instr → List Byte
  | .upd b => [b]
  | .updw cnt din => laneBytes cnt din
  | .nop => []
  | .tgen => []
  | .init => []
  | .load _ => []
  | .rdraw => []
  | .rdfin => []
  | .rdtab _ => []

/-- `feed s` in the general sense of 43_checksum_operations.md: commands UPD and UPDW that consume the bytes
of s in order (rule R146). -/
def FeedsBytes (fed : List Instr) (bytes : List Byte) : Prop :=
  (∀ i ∈ fed, Instr.feeds i = true) ∧ fed.flatMap Instr.inputBytes = bytes

end Sys2Proof.Machine
end

