-- ==== Sys2Proof/Safety.lean ====
section
/-! DEFINITION. What claims about the block are stated in: the invariant of the machine, the values the
host can observe, and runs. -/

namespace Sys2Proof.Machine

/-- The table holds TABLE (rules R31 and R35). -/
def State.TableReady (s : State) : Prop := ∀ i : Byte, s.readTable i = tableEntry i

/-- The entries built so far in the generation in progress hold TABLE (rule R84). -/
def State.TableBuilt (s : State) : Prop :=
  ∀ i : Byte, i.toNat < s.gi.toNat → s.readTable i = tableEntry i

/-- The invariant of the machine. -/
structure State.Inv (s : State) : Prop where
  /-- TVALID always equals NOT GEN_ACTIVE (rule R31). -/
  tvalid_eq : s.tvalid = !s.genActive
  /-- TVALID = 1 means every entry satisfies T[i] = TABLE(i) (rule R31). -/
  ready : s.tvalid = true → s.TableReady
  /-- While a generation is active the entries below GI are built (rule R84). -/
  built : s.genActive = true → s.TableBuilt
  /-- GK is from 0 to 8 (rule R37). -/
  gk_le : s.gk.toNat ≤ 8
  /-- GW is GK bit-iterations of the entry GI (rules R81 and R84). -/
  gw_eq : s.gw = genSteps s.gk.toNat (s.gi.setWidth 32)
  /-- With a ROM table the generator is never active (rule R85). -/
  rom_idle : s.tableInit = .rom → s.genActive = false
  /-- ECAUSE holds a code that is produced (rules R33 and R160). -/
  ecause_le : s.ecause.toNat ≤ 2
  /-- ECAUSE is "none" exactly while no error is recorded (rules R32 and R33). -/
  err_iff : s.err = false ↔ s.ecause = 0#4

/-- No illegal command has been recorded since reset: the premise of a claim (rule R161). -/
def State.NoError (s : State) : Prop := s.err = false

/-- Nothing is at the head and nothing is to come: every presented command has been accepted. -/
def State.Quiet (s : State) : Prop := s.head = none ∧ s.script = []

/-- The values the commands compute and the host can observe (rule R172), TVALID apart. -/
structure Observed where
  r : Word
  dout : Word
  err : Bool
  ecause : BitVec 4
  deriving DecidableEq, Repr

/-- The observed values of a state. -/
def State.observed (s : State) : Observed := ⟨s.r, s.dout, s.err, s.ecause⟩

/-- What a legal command does to the observed values, over the pure TABLE and with no generator, no hold
and no order of agents: the source's own operations. -/
def pureInstr (i : Instr) (o : Observed) : Observed :=
  match i with
  | .nop => o
  | .tgen => o
  | .init => { o with r := 0xFFFFFFFF#32 }
  | .load din => { o with r := din }
  | .upd b => { o with r := crcUpdates o.r [b] }
  | .updw cnt din => { o with r := crcUpdates o.r (laneBytes cnt din) }
  | .rdraw => { o with dout := o.r }
  | .rdfin => { o with dout := crcFinal o.r }
  | .rdtab idx => { o with dout := tableEntry idx }

/-- What a command does to the observed values, an illegal one recording the first cause (rule R161). -/
def pureCommand (o : Observed) (c : Command) : Observed :=
  match decode c with
  | .command i => pureInstr i o
  | .illegal cause => if o.err then o else { o with err := true, ecause := causeCode cause }

/-- The command an event presents. -/
def Event.presented : Event → Option Command
  | .present c => some c
  | .reset => none
  | .engine => none
  | .generator => none
  | .idle => none

/-- The commands not yet accepted, in order: the head, then those the host is still to present. -/
def State.pending (s : State) : List Command := s.head.toList ++ s.script.filterMap Event.presented

/-- The host asserts no reset in what is to come. -/
def State.NoReset (s : State) : Prop := ∀ e ∈ s.script, e ≠ .reset

/-- The meanings of a list of commands, each from the state the one before it leaves: commands accepted
one after another with no other move between them. -/
def execAll : List Instr → State → Result
  | [], s => .next s
  | i :: rest, s =>
    match exec i s with
    | .next t => execAll rest t
    | .fault f => .fault f
    | .refused f => .refused f

/-- The script of a host that presents these instructions in order and does nothing else. -/
def presentAll (cmds : List Instr) : List Event := cmds.map fun i => .present (encode i)

/-- Every word with this OP and a non-zero bit under `zero`, the ZERO field of its format, is
IllegalCommand(RESERVED_FIELD): it is consumed, the first error is recorded, and nothing else changes
(rules R64 and R161). -/
def RejectsReserved (op zero : Word) : Prop :=
  ∀ (c : Command) (s : State), c.cmd >>> 24 = op → c.cmd &&& zero ≠ 0#32 →
    decode c = .illegal .reservedField ∧
    execCommand c s =
      .next { s with head := none, err := true, ecause := if s.err then s.ecause else 2#4 }

/-- Two states that agree on everything but the table entries not built yet: on the whole table once it is
valid, on the entries below GI before that. -/
structure SameBuilt (s u : State) : Prop where
  /-- Every field but the table agrees. -/
  rest_eq : { s with table := u.table } = u
  /-- The built entries agree. -/
  built_eq : ∀ i : Byte, s.tvalid = true ∨ i.toNat < s.gi.toNat → s.readTable i = u.readTable i

/-- `k` steps of the machine from `s`. -/
def runFrom (k : Nat) (s : State) : Result := Host.Core.run core k s

end Sys2Proof.Machine
end

