-- ==== Sys2Proof/Certificates/Slice0/Obligations.lean ====
section
/-! DEFINITION. The statements about the model, for the provers. Each docstring says what it formalises. -/

open Sys2Proof Sys2Proof.Machine

/-! ## Encoding -/

/-- Words written out from the encodings of 30_encoding.md decode to the commands they stand for. -/
def Obligations.SampleWordsDecodeAsTabled : Prop :=
  decode ⟨0x00000000#32, 0#32⟩ = .command .nop ∧
  decode ⟨0x01000000#32, 0#32⟩ = .command .tgen ∧
  decode ⟨0x02000000#32, 0#32⟩ = .command .init ∧
  decode ⟨0x03000000#32, 0x617CB792#32⟩ = .command (.load 0x617CB792#32) ∧
  decode ⟨0x04000031#32, 0#32⟩ = .command (.upd 0x31#8) ∧
  decode ⟨0x05000003#32, 0x34333231#32⟩ = .command (.updw 3#2 0x34333231#32) ∧
  decode ⟨0x06000000#32, 0#32⟩ = .command .rdraw ∧
  decode ⟨0x07000000#32, 0#32⟩ = .command .rdfin ∧
  decode ⟨0x080000FF#32, 0#32⟩ = .command (.rdtab 0xFF#8) ∧
  decode ⟨0x09000001#32, 0#32⟩ = .illegal .illegalOpcode ∧
  decode ⟨0x05000004#32, 0#32⟩ = .illegal .reservedField

/-- Rule R64, line by line, with the operands of rule R62: the opcode check first, then the reserved field
of the format, then the command the opcode names. -/
def Obligations.DecodeFollowsFieldChecks : Prop :=
  ∀ c : Command,
    let op := c.cmd >>> 24
    let z24 := c.cmd &&& 0x00FFFFFF#32
    let z16 := c.cmd &&& 0x00FFFF00#32
    let z22 := c.cmd &&& 0x00FFFFFC#32
    (op > 8#32 → decode c = .illegal .illegalOpcode) ∧
    (op = 4#32 ∨ op = 8#32 → z16 ≠ 0#32 → decode c = .illegal .reservedField) ∧
    (op = 5#32 → z22 ≠ 0#32 → decode c = .illegal .reservedField) ∧
    (op = 0#32 ∨ op = 1#32 ∨ op = 2#32 ∨ op = 3#32 ∨ op = 6#32 ∨ op = 7#32 → z24 ≠ 0#32 →
      decode c = .illegal .reservedField) ∧
    (op = 0#32 → z24 = 0#32 → decode c = .command .nop) ∧
    (op = 1#32 → z24 = 0#32 → decode c = .command .tgen) ∧
    (op = 2#32 → z24 = 0#32 → decode c = .command .init) ∧
    (op = 3#32 → z24 = 0#32 → decode c = .command (.load c.din)) ∧
    (op = 4#32 → z16 = 0#32 → decode c = .command (.upd (c.cmd.setWidth 8))) ∧
    (op = 5#32 → z22 = 0#32 → decode c = .command (.updw (c.cmd.setWidth 2) c.din)) ∧
    (op = 6#32 → z24 = 0#32 → decode c = .command .rdraw) ∧
    (op = 7#32 → z24 = 0#32 → decode c = .command .rdfin) ∧
    (op = 8#32 → z16 = 0#32 → decode c = .command (.rdtab (c.cmd.setWidth 8)))

/-- 30_encoding.md section 3: the words the decoder reads are exactly those that match exactly one row of the
opcode table. -/
def Obligations.LegalWordsMatchOneTableRow : Prop :=
  ∀ c : Command, (∃ i, decode c = .command i) ↔ (opcodeTable.filter (·.matches c.cmd)).length = 1

/-- The round trip: decoding what any instruction encodes to gives the instruction back, with every operand
at every value. -/
def Obligations.DecodeOfEncodeIsIdentity : Prop :=
  ∀ i : Instr, decode (encode i) = .command i

/-- The other round trip: an instruction read from a command encodes to that command word, and to its data
word where the command has one; elsewhere to the data word 0 that rule R67's assembler sets. -/
def Obligations.EncodeOfDecodeIsTheWord : Prop :=
  ∀ (c : Command) (i : Instr), decode c = .command i →
    (encode i).cmd = c.cmd ∧
    (encode i).din = (if c.cmd >>> 24 = 3#32 ∨ c.cmd >>> 24 = 5#32 then c.din else 0#32)

/-- Rule R45: DIN matters to LOAD, whole, and to UPDW, in lanes 0 to n-1; no other bit of DIN changes what
any command, legal or illegal, does. -/
def Obligations.IgnoredDinBitsChangeNothing : Prop :=
  ∀ (s : State) (cmd d d' : Word),
    (cmd >>> 24 ≠ 3#32 → cmd >>> 24 ≠ 5#32 → execCommand ⟨cmd, d⟩ s = execCommand ⟨cmd, d'⟩ s) ∧
    (cmd >>> 24 = 5#32 →
      (∀ j : Nat, j ≤ (cmd.setWidth 2 : BitVec 2).toNat → d.extractLsb' (8 * j) 8 = d'.extractLsb' (8 * j) 8) →
      execCommand ⟨cmd, d⟩ s = execCommand ⟨cmd, d'⟩ s) ∧
    execCommand ⟨0x03000000#32, d⟩ s = .next { s with r := d, head := none }

/-- Rule R67: what the assembler emits for each line, and what it refuses. -/
def Obligations.AssemblerEmitsAndRefuses : Prop :=
  (assemble .nop = some ⟨0x00000000#32, 0#32⟩ ∧ assemble .tgen = some ⟨0x01000000#32, 0#32⟩ ∧
    assemble .init = some ⟨0x02000000#32, 0#32⟩ ∧ assemble .rdraw = some ⟨0x06000000#32, 0#32⟩ ∧
    assemble .rdfin = some ⟨0x07000000#32, 0#32⟩) ∧
  (∀ imm, imm < 2 ^ 32 → ∃ c, assemble (.load imm) = some c ∧
    decode c = .command (.load (BitVec.ofNat 32 imm))) ∧
  (∀ b, b ≤ 0xFF → ∃ c, assemble (.upd b) = some c ∧ c.din = 0#32 ∧
    decode c = .command (.upd (BitVec.ofNat 8 b))) ∧
  (∀ n imm, 1 ≤ n → n ≤ 4 → imm < 2 ^ 32 → ∃ c, assemble (.updw n imm) = some c ∧
    decode c = .command (.updw (BitVec.ofNat 2 (n - 1)) (BitVec.ofNat 32 imm))) ∧
  (∀ idx, idx ≤ 0xFF → ∃ c, assemble (.rdtab idx) = some c ∧ c.din = 0#32 ∧
    decode c = .command (.rdtab (BitVec.ofNat 8 idx))) ∧
  (∀ w : Word, assemble (.word w.toNat) = some ⟨w, 0#32⟩) ∧
  (∀ imm, 2 ^ 32 ≤ imm → assemble (.load imm) = none) ∧
  (∀ b, 0xFF < b → assemble (.upd b) = none ∧ assemble (.rdtab b) = none) ∧
  (∀ imm, assemble (.updw 0 imm) = none) ∧
  (∀ n imm, 4 < n → assemble (.updw n imm) = none)

/-! ## The commands -/

/-- Rule R125, whole. -/
def Obligations.NopHasNoEffect : Prop :=
  (∀ d, decode ⟨0x00000000#32, d⟩ = .command .nop) ∧
  RejectsReserved 0#32 0x00FFFFFF#32 ∧
  (∀ s : State, exec .nop s = .next { s with head := none }) ∧
  (∀ i : Instr, (∀ s : State, exec i s = .next { s with head := none }) → i = .nop)

/-- Rule R86, whole: TGEN is held while a generation is active, starts one in GENERATE mode, and has no
effect in ROM mode; the generation it starts ends after 2304 generator steps with every entry as it was. -/
def Obligations.TgenRebuildsTheTable : Prop :=
  (∀ d, decode ⟨0x01000000#32, d⟩ = .command .tgen) ∧
  RejectsReserved 1#32 0x00FFFFFF#32 ∧
  (∀ s : State, s.genActive = true → exec .tgen s = .next s) ∧
  (∀ s : State, s.genActive = false → s.tableInit = .generate →
    exec .tgen s = .next { s with
      genActive := true, tvalid := false, gi := 0#8, gk := 0#4, gw := 0#32, head := none }) ∧
  (∀ s : State, s.genActive = false → s.tableInit = .rom →
    exec .tgen s = .next { s with head := none }) ∧
  (∀ s : State, s.genActive = false → s.tableInit = .generate → s.TableReady →
    ∃ t, exec .tgen s = .next t ∧
      (∀ k < 2304, (generatorSteps k t).tvalid = false) ∧
      (generatorSteps 2304 t).tvalid = true ∧
      (generatorSteps 2304 t).table = s.table ∧
      (generatorSteps 2304 t).r = s.r ∧ (generatorSteps 2304 t).dout = s.dout)

/-- Rule R120, whole: INIT is never held, writes the sentinel, and equals LOAD of it. -/
def Obligations.InitBeginsFreshComputation : Prop :=
  (∀ d, decode ⟨0x02000000#32, d⟩ = .command .init) ∧
  RejectsReserved 2#32 0x00FFFFFF#32 ∧
  (∀ s : State, exec .init s = .next { s with r := 0xFFFFFFFF#32, head := none }) ∧
  (∀ s : State, exec .init s = exec (.load 0xFFFFFFFF#32) s) ∧
  (∀ init k, exec .init (State.resetOf init k) = .next (State.resetOf init k))

/-- Rule R121, whole: LOAD is never held and accepts every value; the rule's example, and a computation from
a zero start. -/
def Obligations.LoadSetsTheRegister : Prop :=
  (∀ d, decode ⟨0x03000000#32, d⟩ = .command (.load d)) ∧
  RejectsReserved 3#32 0x00FFFFFF#32 ∧
  (∀ (s : State) (d : Word), exec (.load d) s = .next { s with r := d, head := none }) ∧
  (∀ (s : State) (bytes : List Byte), s.tvalid = true → s.TableReady →
    execAll (.load 0#32 :: bytes.map .upd) s =
      .next { s with r := crcUpdates 0#32 bytes, head := none }) ∧
  (∀ s : State, s.tvalid = true → s.TableReady →
    ∃ t, execAll [.load 0x617CB792#32, .upd 0x63#8, .rdfin] s = .next t ∧ t.dout = 0x352441C2#32)

/-- Rule R122, whole: RDRAW is never held and returns R, not complemented. -/
def Obligations.RdrawReturnsTheToken : Prop :=
  (∀ d, decode ⟨0x06000000#32, d⟩ = .command .rdraw) ∧
  RejectsReserved 6#32 0x00FFFFFF#32 ∧
  (∀ s : State, exec .rdraw s = .next { s with dout := s.r, head := none }) ∧
  (∀ init k, ∃ t, exec .rdraw (State.resetOf init k) = .next t ∧ t.dout = 0xFFFFFFFF#32) ∧
  (∀ s : State, ∃ t, execAll [.init, .rdraw] s = .next t ∧ t.dout = 0xFFFFFFFF#32) ∧
  (∀ s : State, s.tvalid = true → s.TableReady →
    ∃ t, execAll [.init, .updw 3#2 0x34333231#32, .rdraw] s = .next t ∧ t.dout = 0x641C1F5C#32)

/-- Rule R123, whole: RDFIN is never held, returns the complement of R and leaves R; twice is as once. -/
def Obligations.RdfinReturnsTheChecksum : Prop :=
  (∀ d, decode ⟨0x07000000#32, d⟩ = .command .rdfin) ∧
  RejectsReserved 7#32 0x00FFFFFF#32 ∧
  (∀ s : State, exec .rdfin s = .next { s with dout := s.r ^^^ 0xFFFFFFFF#32, head := none }) ∧
  (∀ s : State, s.r = 0xFFFFFFFF#32 → exec .rdfin s = .next { s with dout := 0#32, head := none }) ∧
  (∀ s t : State, exec .rdfin s = .next t → exec .rdfin t = .next t) ∧
  (∀ s : State, s.tvalid = true → s.TableReady →
    ∃ t, execAll [.init, .upd 0x31#8, .upd 0x32#8, .upd 0x33#8, .upd 0x34#8, .upd 0x35#8, .upd 0x36#8,
        .upd 0x37#8, .upd 0x38#8, .upd 0x39#8, .rdfin] s = .next t ∧
      t.r = 0x340BC6D9#32 ∧ t.dout = 0xCBF43926#32)

/-- Rule R124, whole: RDTAB is held while TVALID = 0 and otherwise returns the entry, which is TABLE(idx)
when the table is ready. -/
def Obligations.RdtabReturnsTheEntry : Prop :=
  (∀ (idx : Byte) d, decode ⟨0x08000000#32 ||| idx.setWidth 32, d⟩ = .command (.rdtab idx)) ∧
  RejectsReserved 8#32 0x00FFFF00#32 ∧
  (∀ (s : State) (idx : Byte),
    (s.tvalid = false → exec (.rdtab idx) s = .next s) ∧
    (s.tvalid = true → exec (.rdtab idx) s = .next { s with dout := s.readTable idx, head := none }) ∧
    (s.tvalid = true → s.TableReady →
      exec (.rdtab idx) s = .next { s with dout := tableEntry idx, head := none })) ∧
  tableEntry 0x00#8 = 0x00000000#32 ∧ tableEntry 0x80#8 = 0xEDB88320#32 ∧
  tableEntry 0xFF#8 = 0x2D02EF8D#32

/-- Rule R104, whole, with its corner cases and its example. -/
def Obligations.UpdConsumesOneByte : Prop :=
  (∀ (b : Byte) d, decode ⟨0x04000000#32 ||| b.setWidth 32, d⟩ = .command (.upd b)) ∧
  RejectsReserved 4#32 0x00FFFF00#32 ∧
  (∀ (s : State) (b : Byte),
    (s.tvalid = false → exec (.upd b) s = .next s) ∧
    (s.tvalid = true → exec (.upd b) s = .next { s with
      r := s.readTable (((s.r ^^^ b.setWidth 32) &&& 0x000000FF#32).setWidth 8) ^^^ (s.r >>> 8),
      head := none }) ∧
    (s.tvalid = true → s.TableReady →
      exec (.upd b) s = .next { s with r := crcUpdate s.r b, head := none })) ∧
  (∀ r : Word, crcUpdate r (r.setWidth 8) = r >>> 8) ∧
  (∀ b : Byte, crcUpdate 0#32 b = tableEntry b) ∧
  crcUpdate 0x12345678#32 0x78#8 = 0x00123456#32 ∧ crcUpdate 0#32 0x80#8 = 0xEDB88320#32 ∧
  crcUpdate 0xFFFFFFFF#32 0xFF#8 = 0x00FFFFFF#32 ∧ crcUpdate 0x000000FF#32 0xFF#8 = 0#32 ∧
  tableEntry 0xCE#8 = 0x7CDCEFB7#32 ∧ crcUpdate 0xFFFFFFFF#32 0x31#8 = 0x7C231048#32

/-- Rule R105, whole, its loop written out for each count, with its corner cases and its example. -/
def Obligations.UpdwConsumesLanesInOrder : Prop :=
  (∀ (n : BitVec 2) d, decode ⟨0x05000000#32 ||| n.setWidth 32, d⟩ = .command (.updw n d)) ∧
  RejectsReserved 5#32 0x00FFFFFC#32 ∧
  (∀ (s : State) (n : BitVec 2) (d : Word), s.tvalid = false → exec (.updw n d) s = .next s) ∧
  (∀ (s : State) (d : Word), s.tvalid = true → s.TableReady →
    let r1 := crcUpdate s.r (d.extractLsb' 0 8)
    let r2 := crcUpdate r1 (d.extractLsb' 8 8)
    let r3 := crcUpdate r2 (d.extractLsb' 16 8)
    let r4 := crcUpdate r3 (d.extractLsb' 24 8)
    exec (.updw 0#2 d) s = .next { s with r := r1, head := none } ∧
    exec (.updw 1#2 d) s = .next { s with r := r2, head := none } ∧
    exec (.updw 2#2 d) s = .next { s with r := r3, head := none } ∧
    exec (.updw 3#2 d) s = .next { s with r := r4, head := none }) ∧
  (∀ (s : State) (d : Word), exec (.updw 0#2 d) s = exec (.updw 0#2 (d &&& 0x000000FF#32)) s) ∧
  (∀ s : State, s.tvalid = true → s.TableReady →
    (s.r = 0xFFFFFFFF#32 →
      exec (.updw 3#2 0xFFFFFFFF#32) s = .next { s with r := 0#32, head := none }) ∧
    (s.r = 0#32 → exec (.updw 3#2 0#32) s = .next { s with r := 0#32, head := none }) ∧
    (s.r = 0xFFFFFFFF#32 →
      exec (.updw 3#2 0x34333231#32) s = .next { s with r := 0x641C1F5C#32, head := none }))

/-- The frame of every instruction: what it leaves unchanged whenever it answers a next state. A held
command changes nothing; an accepted one is consumed and writes only what its rule names. -/
def Obligations.CommandFrames : Prop :=
  ∀ (i : Instr) (s t : State), exec i s = .next t →
    (t = s ∨ t.head = none) ∧
    ((∀ b, i ≠ .upd b) → (∀ n d, i ≠ .updw n d) → (∀ d, i ≠ .load d) → i ≠ .init → t.r = s.r) ∧
    (i ≠ .rdraw → i ≠ .rdfin → (∀ x, i ≠ .rdtab x) → t.dout = s.dout) ∧
    (i ≠ .tgen → t.tvalid = s.tvalid ∧ t.genActive = s.genActive ∧ t.gi = s.gi ∧ t.gk = s.gk ∧
      t.gw = s.gw) ∧
    t.err = s.err ∧ t.ecause = s.ecause ∧ t.status.extractLsb' 1 31 = s.status.extractLsb' 1 31 ∧
    (∀ x : Byte, t.readTable x = s.readTable x) ∧ t.table = s.table ∧
    t.tableInit = s.tableInit ∧ t.script = s.script ∧ t.draws = s.draws

/-- 20_memory.md section 5: issuing RDRAW, RDFIN or RDTAB twice leaves the same state as issuing it once. -/
def Obligations.ReadCommandsAreIdempotent : Prop :=
  ∀ (i : Instr) (s t : State), i = .rdraw ∨ i = .rdfin ∨ (∃ x, i = .rdtab x) →
    exec i s = .next t → exec i t = .next t ∧ t.r = s.r ∧ t.status = s.status

/-! ## The table and its generator -/

/-- Rule R87, whole. -/
def Obligations.TableValuesAndLinearity : Prop :=
  (∀ s : State, s.table.toList.length = 256) ∧ crcTable.toList.length = 256 ∧
  (∀ i : Byte, crcTable[i.toNat]'(i.isLt) = genStep (genStep (genStep (genStep (genStep (genStep (genStep
    (genStep (i.setWidth 32))))))))) ∧
  genStep 0#32 = 0#32 ∧ tableEntry 0x00#8 = 0#32 ∧
  tableEntry 0x80#8 = 0xEDB88320#32 ∧
  tableEntry 0x01#8 = 0x77073096#32 ∧ tableEntry 0xFF#8 = 0x2D02EF8D#32 ∧
  (∀ x y : Word, genStep (x ^^^ y) = genStep x ^^^ genStep y) ∧
  (∀ a b : Byte, tableEntry (a ^^^ b) = tableEntry a ^^^ tableEntry b)

/-- Rule R84, whole: the generator step case by case, and the generation it makes up: active for 2304 steps,
and then the table is TABLE and nothing but the table and the generator's own state has changed. -/
def Obligations.GenerationTakes2304Steps : Prop :=
  (∀ s : State, s.genActive = false → generatorStep s = s) ∧
  (∀ s : State, s.genActive = true → s.gk.toNat < 8 →
    generatorStep s = { s with gw := genStep s.gw, gk := s.gk + 1#4 }) ∧
  (∀ s : State, s.genActive = true → s.gk = 8#4 → s.gi = 255#8 →
    generatorStep s = { s with
      table := s.table.set 255 s.gw, genActive := false, tvalid := true }) ∧
  (∀ s : State, s.genActive = true → s.gk = 8#4 → s.gi ≠ 255#8 →
    generatorStep s = { s with
      table := s.table.set s.gi.toNat s.gw s.gi.isLt,
      gi := s.gi + 1#8, gk := 0#4, gw := (s.gi + 1#8).setWidth 32 }) ∧
  (∀ s : State,
    (∀ k < 2304, (generatorSteps k s.startGeneration).genActive = true ∧
      (generatorSteps k s.startGeneration).tvalid = false) ∧
    generatorSteps 2304 s.startGeneration = { s with
      table := crcTable, tvalid := true, genActive := false,
      gi := 255#8, gk := 8#4, gw := tableEntry 255#8 } ∧
    (generatorSteps 2304 s.startGeneration).TableReady)

/-- Rule R83, whole: what starting a generation sets, and that reset and an accepted TGEN in GENERATE mode
start one and nothing else does. -/
def Obligations.OnlyResetAndTgenStartGenerations : Prop :=
  (∀ s : State, s.tableInit = .generate → s.nextMove.1 = .reset →
    ∃ t, step s = .next t ∧ t.genActive = true ∧ t.tvalid = false ∧ t.gi = 0#8 ∧ t.gk = 0#4 ∧
      t.gw = 0#32) ∧
  (∀ (s : State) (c : Command), s.tableInit = .generate → s.genActive = false → s.nextMove.1 = .engine →
    s.head = some c → decode c = .command .tgen →
    ∃ t, step s = .next t ∧ t.genActive = true ∧ t.tvalid = false ∧ t.gi = 0#8 ∧ t.gk = 0#4 ∧
      t.gw = 0#32) ∧
  (∀ s t : State, step s = .next t → s.genActive = false → t.genActive = true →
    s.tableInit = .generate ∧
    (s.nextMove.1 = .reset ∨
      (s.nextMove.1 = .engine ∧ ∃ c, s.head = some c ∧ decode c = .command .tgen)))

/-- Rule R85, whole: with a ROM table, T is TABLE at reset and stays so, and the generator never has a
step. -/
def Obligations.RomTableIsConstant : Prop :=
  (∀ k, (State.resetOf .rom k).TableReady ∧ (State.resetOf .rom k).tvalid = true ∧
    (State.resetOf .rom k).genActive = false) ∧
  (∀ s : State, s.Inv → s.tableInit = .rom →
    s.TableReady ∧ s.tvalid = true ∧ generatorStep s = s ∧
    ∀ t, step s = .next t → t.table = s.table ∧ t.tableInit = .rom)

/-- 10_state.md section 4: only the generator's own step, finishing entry GI, or a reset changes T. -/
def Obligations.OnlyTheGeneratorWritesTheTable : Prop :=
  ∀ s t : State, step s = .next t → t.table ≠ s.table →
    s.nextMove.1 = .reset ∨
    (s.nextMove.1 = .generator ∧ s.genActive = true ∧ 8 ≤ s.gk.toNat ∧
      t.table = s.table.set s.gi.toNat s.gw s.gi.isLt)

/-! ## The update step and the checksum operations -/

/-- Rule R103, whole. -/
def Obligations.FinalIsItsOwnInverse : Prop :=
  ∀ r : Word, crcFinal r = r ^^^ 0xFFFFFFFF#32 ∧ crcFinal (crcFinal r) = r

/-- Rule R108, whole: concatenation, linearity and the empty input. -/
def Obligations.UpdateConcatenatesAndIsLinear : Prop :=
  (∀ (r : Word) (s1 s2 : List Byte), crcUpdates r (s1 ++ s2) = crcUpdates (crcUpdates r s1) s2) ∧
  (∀ (r1 r2 : Word) (b1 b2 : Byte),
    crcUpdate (r1 ^^^ r2) (b1 ^^^ b2) = crcUpdate r1 b1 ^^^ crcUpdate r2 b2) ∧
  (∀ (r1 r2 : Word) (b : Byte), crcUpdate (r1 ^^^ r2) b = crcUpdate r1 b ^^^ crcUpdate r2 0#8) ∧
  (∀ r : Word, crcUpdates r [] = r)

/-- Rule R106, whole: with TVALID = 1 an UPDW has the effect of its UPDs in lane order, and is UPDATE* over
its lanes. -/
def Obligations.UpdwEqualsUpdsInLaneOrder : Prop :=
  ∀ (s : State) (n : BitVec 2) (d : Word), s.tvalid = true →
    let lanes := (List.range (n.toNat + 1)).map fun j => d.extractLsb' (8 * j) 8
    (∃ t u, exec (.updw n d) s = .next t ∧ execAll (lanes.map .upd) s = .next u ∧ t.r = u.r) ∧
    exec (.updw 0#2 d) s = exec (.upd (d.setWidth 8)) s ∧
    (s.TableReady → exec (.updw n d) s = .next { s with r := crcUpdates s.r lanes, head := none })

/-- Rule R147, whole: a single flipped bit changes the checksum, and the three steps of its proof sketch. -/
def Obligations.SingleBitErrorsAreDetected : Prop :=
  (∀ (before after : List Byte) (b : Byte) (q : Fin 8),
    crcFinal (crcUpdates 0xFFFFFFFF#32 (before ++ (b ^^^ (1#8 <<< q.val)) :: after)) ≠
      crcFinal (crcUpdates 0xFFFFFFFF#32 (before ++ b :: after))) ∧
  (∀ x y : List Byte, x.length = y.length →
    crcFinal (crcUpdates 0xFFFFFFFF#32 x) ^^^ crcFinal (crcUpdates 0xFFFFFFFF#32 y) =
      crcUpdates 0#32 (List.zipWith (· ^^^ ·) x y)) ∧
  (∀ i j : Byte, (tableEntry i).extractLsb' 24 8 = (tableEntry j).extractLsb' 24 8 → i = j) ∧
  (∀ i : Byte, i ≠ 0#8 → tableEntry i ≠ 0#32) ∧
  (∀ r r' : Word, crcUpdate r 0#8 = crcUpdate r' 0#8 → r = r')

/-- 30_encoding.md section 5: the canonical expansion of `feed` consumes exactly the bytes, in order; it is
UPDW commands only, each but the last with a full group of four, and unused lanes are 0. -/
def Obligations.FeedExpansionConsumesTheBytes : Prop :=
  ∀ bytes : List Byte, FeedsBytes (feed bytes) bytes ∧ (feed bytes).length = (bytes.length + 3) / 4 ∧
    (∀ i ∈ feed bytes, ∃ n d, i = .updw n d) ∧
    (∀ i ∈ (feed bytes).dropLast, ∃ d, i = .updw 3#2 d) ∧
    ∀ n d, Instr.updw n d ∈ feed bytes → ∀ j : Nat, n.toNat < j → lane d j = 0#8

/-- 43_checksum_operations.md, the single-shot operation: on the machine, for every feeding of the bytes, from
any state of the invariant, a generation in progress or not, R and DOUT end as the operation says. That the
sequence ends, and the one order of turns a script of presentations has, is the model's choice (logs 4 and
20); BlockRefinesThePureOperations says the values are the same in every order. -/
def Obligations.ComputeChecksumOnTheBlock : Prop :=
  ∀ (s : State) (fed : List Instr) (bytes : List Byte), s.Inv → s.head = none →
    s.script = presentAll (crcCompute fed) → FeedsBytes fed bytes →
    ∃ k t, runFrom k s = .next t ∧ t.Quiet ∧
      t.r = crcUpdates 0xFFFFFFFF#32 bytes ∧ t.dout = crcFinal (crcUpdates 0xFFFFFFFF#32 bytes)

/-- 43_checksum_operations.md, the incremental operation. That the sequence ends, and its one order of turns,
is the model's choice (logs 4 and 20). -/
def Obligations.ContinueChecksumOnTheBlock : Prop :=
  ∀ (s : State) (fed : List Instr) (bytes : List Byte) (token : Word), s.Inv → s.head = none →
    s.script = presentAll (crcContinue fed token) → FeedsBytes fed bytes →
    ∃ k t, runFrom k s = .next t ∧ t.Quiet ∧
      t.r = crcUpdates token bytes ∧ t.dout = crcUpdates token bytes

/-- 43_checksum_operations.md: the empty input, and the published check value. That each sequence ends, and
its one order of turns, is the model's choice (logs 4 and 20). -/
def Obligations.EmptyInputAndCheckValue : Prop :=
  (∀ s : State, s.Inv → s.head = none → s.script = presentAll (crcCompute []) →
    ∃ k t, runFrom k s = .next t ∧ t.Quiet ∧ t.dout = 0#32) ∧
  (∀ (s : State) (token : Word), s.Inv → s.head = none → s.script = presentAll (crcContinue [] token) →
    ∃ k t, runFrom k s = .next t ∧ t.Quiet ∧ t.dout = token) ∧
  (∀ (s : State) (fed : List Instr), s.Inv → s.head = none → s.script = presentAll (crcCompute fed) →
    FeedsBytes fed [0x31#8, 0x32#8, 0x33#8, 0x34#8, 0x35#8, 0x36#8, 0x37#8, 0x38#8, 0x39#8] →
    ∃ k t, runFrom k s = .next t ∧ t.Quiet ∧ t.dout = 0xCBF43926#32)

/-- Rule R142, whole: the two ways to finish a chain of incremental operations give the same value, the
checksum. -/
def Obligations.FinishingTwoWaysAgrees : Prop :=
  ∀ (s : State) (fed : List Instr) (bytes : List Byte) (token : Word), s.tvalid = true → s.TableReady →
    FeedsBytes fed bytes →
    ∃ t u, execAll (crcContinue fed token) s = .next t ∧ execAll [.rdfin] t = .next u ∧
      u.dout = t.dout ^^^ 0xFFFFFFFF#32 ∧ u.dout = crcFinal (crcUpdates token bytes)

/-- Rule R146, whole: the chaining law on the block for two chunks, its extension to any partition for
UPDATE*, and that neither the split into UPD and UPDW commands nor the split into LOAD and RDRAW sessions
changes R on the block. -/
def Obligations.ChainingLaw : Prop :=
  (∀ (s : State) (fed1 fed2 fed : List Instr) (s1 s2 : List Byte), s.tvalid = true → s.TableReady →
    FeedsBytes fed1 s1 → FeedsBytes fed2 s2 → FeedsBytes fed (s1 ++ s2) →
    ∃ t u v, execAll (crcContinue fed1 0xFFFFFFFF#32) s = .next t ∧
      execAll (crcContinue fed2 t.dout) t = .next u ∧ execAll (crcCompute fed) s = .next v ∧
      crcFinal u.dout = v.dout ∧ u.r = v.r) ∧
  (∀ chunks : List (List Byte),
    crcFinal (chunks.foldl crcUpdates 0xFFFFFFFF#32) = crcFinal (crcUpdates 0xFFFFFFFF#32 chunks.flatten)) ∧
  (∀ (s : State) (fed fed' : List Instr) (bytes : List Byte), s.tvalid = true →
    FeedsBytes fed bytes → FeedsBytes fed' bytes →
    ∃ t t', execAll fed s = .next t ∧ execAll fed' s = .next t' ∧ t.r = t'.r)

/-- 43_checksum_operations.md: a computation suspended by `crc.save` and resumed by `crc.restore` of its token
finds its register again, whatever was executed in between. -/
def Obligations.SavedComputationsResume : Prop :=
  ∀ s : State, ∃ t, execAll crcSave s = .next t ∧ t.r = s.r ∧
    ∀ (other : List Instr) (u : State), execAll other t = .next u →
      ∃ v, execAll (crcRestore t.dout) u = .next v ∧ v.r = s.r

/-! ## Errors -/

/-- 60_exceptions.md section 1: an illegal word is consumed, records the first cause and changes nothing else;
the next command then becomes the head, and instructions execute with ERR = 1 as without it. That the next
command becomes the head by a step of its own, in which no agent moves, is the model's choice (log 5). -/
def Obligations.IllegalCommandRecordsFirstCause : Prop :=
  (∀ (c : Command) (s : State) (cause : Cause), decode c = .illegal cause →
    (s.err = false → execCommand c s = .next { s with
      head := none, err := true, ecause := (match cause with | .illegalOpcode => 1#4 | .reservedField => 2#4) }) ∧
    (s.err = true → execCommand c s = .next { s with head := none })) ∧
  (∀ (s : State) (c : Command) (rest : List Event), s.head = none → s.script = .present c :: rest →
    step s = .next { s with head := some c, script := rest }) ∧
  (∀ (i : Instr) (s t : State) (e : BitVec 4), exec i s = .next t →
    exec i { s with err := true, ecause := e } = .next { t with err := true, ecause := e })

/-- Rules R32 and R33, whole: ERR is set by every illegal command and by nothing else and is cleared by
nothing but reset; ECAUSE is written only when ERR goes from 0 to 1, with the cause of that command; with
ERR = 1 commands execute as without it. -/
def Obligations.ErrorRecordIsStickyAndFirst : Prop :=
  (∀ s t : State, step s = .next t → s.nextMove.1 ≠ .reset → s.err = true →
    t.err = true ∧ t.ecause = s.ecause) ∧
  (∀ s t : State, step s = .next t → s.nextMove.1 ≠ .reset → s.err = false →
    (t.err = false ∧ t.ecause = s.ecause) ∨
    (s.nextMove.1 = .engine ∧ ∃ c cause, s.head = some c ∧ decode c = .illegal cause ∧ t.err = true ∧
      t.ecause = (match cause with | .illegalOpcode => 1#4 | .reservedField => 2#4))) ∧
  (∀ (s : State) (c : Command) (cause : Cause), s.nextMove.1 = .engine → s.head = some c →
    decode c = .illegal cause → ∃ t, step s = .next t ∧ t.err = true) ∧
  (∀ s t : State, step s = .next t → s.nextMove.1 = .reset → t.err = false ∧ t.ecause = 0#4) ∧
  (∀ (i : Instr) (s t : State) (e : BitVec 4), exec i s = .next t →
    exec i { s with err := true, ecause := e } = .next { t with err := true, ecause := e }) ∧
  (∀ s : State, s.Inv → s.ecause = 0#4 ∨ s.ecause = 1#4 ∨ s.ecause = 2#4)

/-! ## The machine -/

/-- Nothing stops the block: every state, reachable or not, has a next state. -/
def Obligations.EveryStepAnswersNext : Prop :=
  ∀ s : State, ∃ t, step s = .next t

/-- The invariant holds after every reset, for both values of TABLE_INIT. What the model's own fields hold
there is the model's choice (logs 3 and 4). -/
def Obligations.ResetMeetsTheInvariant : Prop :=
  State.reset.Inv ∧ ∀ init k, (State.resetOf init k).Inv

/-- Every step keeps the invariant: TVALID equals NOT GEN_ACTIVE, a valid table is TABLE, the entries built
so far are TABLE's, GW is GK bit-iterations of GI, ECAUSE holds a produced code exactly when ERR is set. -/
def Obligations.EveryStepKeepsTheInvariant : Prop :=
  ∀ s t : State, s.Inv → step s = .next t → t.Inv

/-- Rule R180, whole: a reset, in any state and whatever is in progress, sets every piece of state the rule
lists, by TABLE_INIT where the rule does. Of T in GENERATE mode, which the rule leaves unspecified, nothing is
said. -/
def Obligations.ResetSetsEveryPieceOfState : Prop :=
  ∀ (s : State) (rest : List Event), s.script = .reset :: rest →
    ∃ t, step s = .next t ∧ t.r = 0xFFFFFFFF#32 ∧ t.dout = 0#32 ∧ t.err = false ∧ t.ecause = 0#4 ∧
      t.gi = 0#8 ∧ t.gk = 0#4 ∧ t.gw = 0#32 ∧ t.head = none ∧
      t.status &&& 0xFFFFFF0C#32 = 0#32 ∧
      (s.tableInit = .generate → t.tvalid = false ∧ t.genActive = true) ∧
      (s.tableInit = .rom → t.tvalid = true ∧ t.genActive = false ∧ t.TableReady)

/-- A step runs the decoded instruction: when the engine has the turn and the head command decodes to i, the
step is exec of i, the turn taken off the script; when it decodes to nothing, IllegalCommand is raised. -/
def Obligations.StepRunsTheHeadCommand : Prop :=
  ∀ (s : State) (c : Command) (rest : List Event), s.head = some c → s.script = .engine :: rest →
    (∀ i, decode c = .command i → step s = exec i { s with script := rest }) ∧
    (∀ cause, decode c = .illegal cause → step s = raiseIllegal cause { s with script := rest })

/-- Where the script gives no turn (it is empty, or the next command waits): a head that is not held is
executed, a held one lets the generator step (log 4). -/
def Obligations.UnscriptedTurnsServeTheHead : Prop :=
  ∀ (s : State) (c : Command), s.head = some c →
    s.script = [] ∨ (∃ c' rest, s.script = .present c' :: rest) →
    (∀ i, decode c = .command i → s.holds i = false → step s = exec i s) ∧
    (∀ cause, decode c = .illegal cause → step s = raiseIllegal cause s) ∧
    (∀ i, decode c = .command i → s.holds i = true → s.genActive = true →
      step s = .next (generatorStep s))

/-- A placed instruction is what the very next step executes, with its own effect and not held (log 7). -/
def Obligations.PlacedInstructionRunsNext : Prop :=
  ∀ (s : State) (nbits w : Nat) (i : Instr), decodeTableWord nbits w = some i →
    ∃ u, step (s.withFetchWord nbits w) = exec i u ∧ u.holds i = false ∧ u.script = s.script ∧
      u.r = s.r ∧ u.dout = s.dout ∧ u.err = s.err ∧ u.ecause = s.ecause ∧
      (∃ t, exec i u = .next t ∧ t.head = none)

/-- 70_reset_and_hazards.md section 4: the engine leaves the head in place exactly when it is legal, TVALID
is 0 and its OP is TGEN, UPD, UPDW or RDTAB; it then changes nothing. Otherwise the head is consumed. In a
state where TVALID is not NOT GEN_ACTIVE, which no run reaches, rule R86's own test decides for TGEN. -/
def Obligations.HeadIsHeldExactlyByTheHoldRule : Prop :=
  ∀ (s : State) (c : Command), s.tvalid = (!s.genActive) → s.head = some c →
    let isHeld := (∃ i, decode c = .command i) ∧ s.tvalid = false ∧
      (c.cmd >>> 24 = 1#32 ∨ c.cmd >>> 24 = 4#32 ∨ c.cmd >>> 24 = 5#32 ∨ c.cmd >>> 24 = 8#32)
    (isHeld → engineStep s = .next s) ∧
    (¬ isHeld → ∃ t, engineStep s = .next t ∧ t.head = none)

/-- 70_reset_and_hazards.md section 4: a held head waits at most 2304 generator steps; it stays at the head,
nothing the host can observe but TVALID changes meanwhile, and the step after is its execution. That the
generator gets these turns is the model's fairness (log 20). -/
def Obligations.EveryHoldIsLifted : Prop :=
  ∀ (s : State) (c : Command), s.Inv → s.head = some c → s.script = [] → s.holdsCommand c = true →
    ∃ k t, 1 ≤ k ∧ k ≤ 2304 ∧ runFrom k s = .next t ∧ t.tvalid = true ∧ t.head = some c ∧
      t.observed = s.observed ∧ t.holdsCommand c = false ∧ step t = execCommand c t

/-- 10_state.md section 2: commands are accepted in the order presented, each exactly once: a step that is
not a reset takes at most the first pending command, and no other command's place changes. -/
def Obligations.CommandsAreAcceptedInOrder : Prop :=
  ∀ s t : State, step s = .next t → s.nextMove.1 ≠ .reset →
    t.pending = s.pending ∨
      (s.nextMove.1 = .engine ∧ ∃ c, s.head = some c ∧ s.pending = c :: t.pending ∧ t.head = none)

/-- The block refines the pure operations: whatever turns the agents are given, once every presented command
has been accepted, R, DOUT and the error record are what the commands, folded in order over the pure TABLE,
make of them. -/
def Obligations.BlockRefinesThePureOperations : Prop :=
  ∀ (k : Nat) (s t : State), s.Inv → s.NoReset → runFrom k s = .next t → t.Quiet →
    t.observed = s.pending.foldl pureCommand s.observed

/-- The block cannot stall: every finite stream of commands is accepted, within one step for each event to
come and 2305 steps for each pending command. The turns where the script gives none, and so the bound, are
the model's choice (logs 4 and 20). -/
def Obligations.EveryStreamIsAccepted : Prop :=
  ∀ s : State, s.Inv → s.NoReset →
    ∃ k t, k ≤ s.script.length + 2305 * s.pending.length ∧ runFrom k s = .next t ∧ t.Quiet

/-- 60_exceptions.md section 2: where a generator step and an engine step can both occur, and the generator's
step does not lift the head's hold, the two orders leave the same state. -/
def Obligations.GeneratorAndEngineStepsCommute : Prop :=
  ∀ (s : State) (c : Command), s.Inv → s.genActive = true → s.head = some c →
    (generatorStep s).holdsCommand c = s.holdsCommand c →
    ∃ t u, engineStep s = .next t ∧ engineStep (generatorStep s) = .next u ∧ u = generatorStep t

/-- 93_implementation_defined.md I2: the entries of T not built yet, which hold free values after a reset
(log 2), are never observed: two blocks that differ only in them agree on everything else after any number
of steps. -/
def Obligations.UnbuiltEntriesAreUnobservable : Prop :=
  ∀ (k : Nat) (s u : State), SameBuilt s u →
    ∃ t v, runFrom k s = .next t ∧ runFrom k u = .next v ∧ SameBuilt t v ∧
      t.observed = v.observed ∧ t.status = v.status

/-- 10_state.md section 1: what changes R and what changes DOUT. -/
def Obligations.RegisterWriters : Prop :=
  ∀ s t : State, step s = .next t → s.nextMove.1 ≠ .reset →
    (t.r ≠ s.r → s.nextMove.1 = .engine ∧ ∃ c i, s.head = some c ∧ decode c = .command i ∧
      (i = .init ∨ (∃ d, i = .load d) ∨ (∃ b, i = .upd b) ∨ ∃ n d, i = .updw n d)) ∧
    (t.dout ≠ s.dout → s.nextMove.1 = .engine ∧ ∃ c i, s.head = some c ∧ decode c = .command i ∧
      (i = .rdraw ∨ i = .rdfin ∨ ∃ x, i = .rdtab x))

/-- The parameter TABLE_INIT never changes (log 1), and only a reset draws T anew: it takes the table of the
next draw (logs 2 and 3), and every other step keeps the counter and, but for one entry the generator
writes, the table. -/
def Obligations.ParameterNeverChanges : Prop :=
  ∀ s t : State, step s = .next t → t.tableInit = s.tableInit ∧
    (s.nextMove.1 = .reset →
      t.draws = s.draws + 1 ∧ t.table = tableOnReset s.tableInit (s.draws + 1)) ∧
    (s.nextMove.1 ≠ .reset → t.draws = s.draws ∧
      (t.table = s.table ∨
        (s.nextMove.1 = .generator ∧ t.table = s.table.set s.gi.toNat s.gw s.gi.isLt)))

/-- 10_state.md section 3: the layout of STATUS. -/
def Obligations.StatusLayout : Prop :=
  ∀ s : State, s.status.getLsbD 0 = s.tvalid ∧ s.status.getLsbD 1 = s.err ∧
    s.status.extractLsb' 4 4 = s.ecause ∧ s.status.extractLsb' 2 2 = 0#2 ∧
    s.status.extractLsb' 8 24 = 0#24 ∧
    State.reset.status = 0#32 ∧ ∀ k, (State.resetOf .rom k).status = 1#32

/-- 60_exceptions.md section 5: with no command presented and no generation active the state persists. -/
def Obligations.IdleStatePersists : Prop :=
  ∀ s : State, s.head = none → s.script = [] → s.genActive = false → step s = .next s
end

