-- ==== Sys2Proof/Laws/State.lean ====
section
/-! SUPPORT. One lemma per field per update of the state, each true by unfolding the update once. -/

namespace Sys2Proof.Machine

variable (s : State)

/-! ### State.accept -/

@[simp] theorem State.accept_r : s.accept.r = s.r := rfl
@[simp] theorem State.accept_dout : s.accept.dout = s.dout := rfl
@[simp] theorem State.accept_tvalid : s.accept.tvalid = s.tvalid := rfl
@[simp] theorem State.accept_err : s.accept.err = s.err := rfl
@[simp] theorem State.accept_ecause : s.accept.ecause = s.ecause := rfl
@[simp] theorem State.accept_table : s.accept.table = s.table := rfl
@[simp] theorem State.accept_genActive : s.accept.genActive = s.genActive := rfl
@[simp] theorem State.accept_gi : s.accept.gi = s.gi := rfl
@[simp] theorem State.accept_gk : s.accept.gk = s.gk := rfl
@[simp] theorem State.accept_gw : s.accept.gw = s.gw := rfl
@[simp] theorem State.accept_head : s.accept.head = none := rfl
@[simp] theorem State.accept_tableInit : s.accept.tableInit = s.tableInit := rfl
@[simp] theorem State.accept_script : s.accept.script = s.script := rfl
@[simp] theorem State.accept_draws : s.accept.draws = s.draws := rfl

/-! ### State.writeR -/

@[simp] theorem State.writeR_r (v : Word) : (s.writeR v).r = v := rfl
@[simp] theorem State.writeR_dout (v : Word) : (s.writeR v).dout = s.dout := rfl
@[simp] theorem State.writeR_tvalid (v : Word) : (s.writeR v).tvalid = s.tvalid := rfl
@[simp] theorem State.writeR_err (v : Word) : (s.writeR v).err = s.err := rfl
@[simp] theorem State.writeR_ecause (v : Word) : (s.writeR v).ecause = s.ecause := rfl
@[simp] theorem State.writeR_table (v : Word) : (s.writeR v).table = s.table := rfl
@[simp] theorem State.writeR_genActive (v : Word) : (s.writeR v).genActive = s.genActive := rfl
@[simp] theorem State.writeR_gi (v : Word) : (s.writeR v).gi = s.gi := rfl
@[simp] theorem State.writeR_gk (v : Word) : (s.writeR v).gk = s.gk := rfl
@[simp] theorem State.writeR_gw (v : Word) : (s.writeR v).gw = s.gw := rfl
@[simp] theorem State.writeR_head (v : Word) : (s.writeR v).head = s.head := rfl
@[simp] theorem State.writeR_tableInit (v : Word) : (s.writeR v).tableInit = s.tableInit := rfl
@[simp] theorem State.writeR_script (v : Word) : (s.writeR v).script = s.script := rfl
@[simp] theorem State.writeR_draws (v : Word) : (s.writeR v).draws = s.draws := rfl

/-! ### State.writeDout -/

@[simp] theorem State.writeDout_r (v : Word) : (s.writeDout v).r = s.r := rfl
@[simp] theorem State.writeDout_dout (v : Word) : (s.writeDout v).dout = v := rfl
@[simp] theorem State.writeDout_tvalid (v : Word) : (s.writeDout v).tvalid = s.tvalid := rfl
@[simp] theorem State.writeDout_err (v : Word) : (s.writeDout v).err = s.err := rfl
@[simp] theorem State.writeDout_ecause (v : Word) : (s.writeDout v).ecause = s.ecause := rfl
@[simp] theorem State.writeDout_table (v : Word) : (s.writeDout v).table = s.table := rfl
@[simp] theorem State.writeDout_genActive (v : Word) : (s.writeDout v).genActive = s.genActive := rfl
@[simp] theorem State.writeDout_gi (v : Word) : (s.writeDout v).gi = s.gi := rfl
@[simp] theorem State.writeDout_gk (v : Word) : (s.writeDout v).gk = s.gk := rfl
@[simp] theorem State.writeDout_gw (v : Word) : (s.writeDout v).gw = s.gw := rfl
@[simp] theorem State.writeDout_head (v : Word) : (s.writeDout v).head = s.head := rfl
@[simp] theorem State.writeDout_tableInit (v : Word) : (s.writeDout v).tableInit = s.tableInit := rfl
@[simp] theorem State.writeDout_script (v : Word) : (s.writeDout v).script = s.script := rfl
@[simp] theorem State.writeDout_draws (v : Word) : (s.writeDout v).draws = s.draws := rfl

/-! ### State.writeTable -/

@[simp] theorem State.writeTable_r (i : Byte) (v : Word) : (s.writeTable i v).r = s.r := rfl
@[simp] theorem State.writeTable_dout (i : Byte) (v : Word) : (s.writeTable i v).dout = s.dout := rfl
@[simp] theorem State.writeTable_tvalid (i : Byte) (v : Word) : (s.writeTable i v).tvalid = s.tvalid := rfl
@[simp] theorem State.writeTable_err (i : Byte) (v : Word) : (s.writeTable i v).err = s.err := rfl
@[simp] theorem State.writeTable_ecause (i : Byte) (v : Word) : (s.writeTable i v).ecause = s.ecause := rfl
@[simp] theorem State.writeTable_table (i : Byte) (v : Word) : (s.writeTable i v).table = s.table.set i.toNat v i.isLt := rfl
@[simp] theorem State.writeTable_genActive (i : Byte) (v : Word) : (s.writeTable i v).genActive = s.genActive := rfl
@[simp] theorem State.writeTable_gi (i : Byte) (v : Word) : (s.writeTable i v).gi = s.gi := rfl
@[simp] theorem State.writeTable_gk (i : Byte) (v : Word) : (s.writeTable i v).gk = s.gk := rfl
@[simp] theorem State.writeTable_gw (i : Byte) (v : Word) : (s.writeTable i v).gw = s.gw := rfl
@[simp] theorem State.writeTable_head (i : Byte) (v : Word) : (s.writeTable i v).head = s.head := rfl
@[simp] theorem State.writeTable_tableInit (i : Byte) (v : Word) : (s.writeTable i v).tableInit = s.tableInit := rfl
@[simp] theorem State.writeTable_script (i : Byte) (v : Word) : (s.writeTable i v).script = s.script := rfl
@[simp] theorem State.writeTable_draws (i : Byte) (v : Word) : (s.writeTable i v).draws = s.draws := rfl

/-! ### State.startGeneration -/

@[simp] theorem State.startGeneration_r : s.startGeneration.r = s.r := rfl
@[simp] theorem State.startGeneration_dout : s.startGeneration.dout = s.dout := rfl
@[simp] theorem State.startGeneration_tvalid : s.startGeneration.tvalid = false := rfl
@[simp] theorem State.startGeneration_err : s.startGeneration.err = s.err := rfl
@[simp] theorem State.startGeneration_ecause : s.startGeneration.ecause = s.ecause := rfl
@[simp] theorem State.startGeneration_table : s.startGeneration.table = s.table := rfl
@[simp] theorem State.startGeneration_genActive : s.startGeneration.genActive = true := rfl
@[simp] theorem State.startGeneration_gi : s.startGeneration.gi = 0#8 := rfl
@[simp] theorem State.startGeneration_gk : s.startGeneration.gk = 0#4 := rfl
@[simp] theorem State.startGeneration_gw : s.startGeneration.gw = 0#32 := rfl
@[simp] theorem State.startGeneration_head : s.startGeneration.head = s.head := rfl
@[simp] theorem State.startGeneration_tableInit : s.startGeneration.tableInit = s.tableInit := rfl
@[simp] theorem State.startGeneration_script : s.startGeneration.script = s.script := rfl
@[simp] theorem State.startGeneration_draws : s.startGeneration.draws = s.draws := rfl

/-! ### State.present -/

@[simp] theorem State.present_r (c : Command) : (s.present c).r = s.r := rfl
@[simp] theorem State.present_dout (c : Command) : (s.present c).dout = s.dout := rfl
@[simp] theorem State.present_tvalid (c : Command) : (s.present c).tvalid = s.tvalid := rfl
@[simp] theorem State.present_err (c : Command) : (s.present c).err = s.err := rfl
@[simp] theorem State.present_ecause (c : Command) : (s.present c).ecause = s.ecause := rfl
@[simp] theorem State.present_table (c : Command) : (s.present c).table = s.table := rfl
@[simp] theorem State.present_genActive (c : Command) : (s.present c).genActive = s.genActive := rfl
@[simp] theorem State.present_gi (c : Command) : (s.present c).gi = s.gi := rfl
@[simp] theorem State.present_gk (c : Command) : (s.present c).gk = s.gk := rfl
@[simp] theorem State.present_gw (c : Command) : (s.present c).gw = s.gw := rfl
@[simp] theorem State.present_head (c : Command) : (s.present c).head = some c := rfl
@[simp] theorem State.present_tableInit (c : Command) : (s.present c).tableInit = s.tableInit := rfl
@[simp] theorem State.present_script (c : Command) : (s.present c).script = s.script := rfl
@[simp] theorem State.present_draws (c : Command) : (s.present c).draws = s.draws := rfl

/-! ### State.withScript -/

@[simp] theorem State.withScript_r (l : List Event) : (s.withScript l).r = s.r := rfl
@[simp] theorem State.withScript_dout (l : List Event) : (s.withScript l).dout = s.dout := rfl
@[simp] theorem State.withScript_tvalid (l : List Event) : (s.withScript l).tvalid = s.tvalid := rfl
@[simp] theorem State.withScript_err (l : List Event) : (s.withScript l).err = s.err := rfl
@[simp] theorem State.withScript_ecause (l : List Event) : (s.withScript l).ecause = s.ecause := rfl
@[simp] theorem State.withScript_table (l : List Event) : (s.withScript l).table = s.table := rfl
@[simp] theorem State.withScript_genActive (l : List Event) : (s.withScript l).genActive = s.genActive := rfl
@[simp] theorem State.withScript_gi (l : List Event) : (s.withScript l).gi = s.gi := rfl
@[simp] theorem State.withScript_gk (l : List Event) : (s.withScript l).gk = s.gk := rfl
@[simp] theorem State.withScript_gw (l : List Event) : (s.withScript l).gw = s.gw := rfl
@[simp] theorem State.withScript_head (l : List Event) : (s.withScript l).head = s.head := rfl
@[simp] theorem State.withScript_tableInit (l : List Event) : (s.withScript l).tableInit = s.tableInit := rfl
@[simp] theorem State.withScript_script (l : List Event) : (s.withScript l).script = l := rfl
@[simp] theorem State.withScript_draws (l : List Event) : (s.withScript l).draws = s.draws := rfl

/-! ### State.afterGeneration -/

@[simp] theorem State.afterGeneration_r : s.afterGeneration.r = s.r := rfl
@[simp] theorem State.afterGeneration_dout : s.afterGeneration.dout = s.dout := rfl
@[simp] theorem State.afterGeneration_tvalid : s.afterGeneration.tvalid = true := rfl
@[simp] theorem State.afterGeneration_err : s.afterGeneration.err = s.err := rfl
@[simp] theorem State.afterGeneration_ecause : s.afterGeneration.ecause = s.ecause := rfl
@[simp] theorem State.afterGeneration_table : s.afterGeneration.table = crcTable := rfl
@[simp] theorem State.afterGeneration_genActive : s.afterGeneration.genActive = false := rfl
@[simp] theorem State.afterGeneration_gi : s.afterGeneration.gi = 255#8 := rfl
@[simp] theorem State.afterGeneration_gk : s.afterGeneration.gk = 8#4 := rfl
@[simp] theorem State.afterGeneration_gw : s.afterGeneration.gw = tableEntry 255#8 := rfl
@[simp] theorem State.afterGeneration_head : s.afterGeneration.head = s.head := rfl
@[simp] theorem State.afterGeneration_tableInit : s.afterGeneration.tableInit = s.tableInit := rfl
@[simp] theorem State.afterGeneration_script : s.afterGeneration.script = s.script := rfl
@[simp] theorem State.afterGeneration_draws : s.afterGeneration.draws = s.draws := rfl

/-! ### State.hostReset -/

@[simp] theorem State.hostReset_r : s.hostReset.r = Config.initialR := rfl
@[simp] theorem State.hostReset_dout : s.hostReset.dout = 0#32 := rfl
@[simp] theorem State.hostReset_tvalid : s.hostReset.tvalid = (s.tableInit == .rom) := rfl
@[simp] theorem State.hostReset_err : s.hostReset.err = false := rfl
@[simp] theorem State.hostReset_ecause : s.hostReset.ecause = 0#4 := rfl
@[simp] theorem State.hostReset_table : s.hostReset.table = tableOnReset s.tableInit (s.draws + 1) := rfl
@[simp] theorem State.hostReset_genActive : s.hostReset.genActive = (s.tableInit == .generate) := rfl
@[simp] theorem State.hostReset_gi : s.hostReset.gi = 0#8 := rfl
@[simp] theorem State.hostReset_gk : s.hostReset.gk = 0#4 := rfl
@[simp] theorem State.hostReset_gw : s.hostReset.gw = 0#32 := rfl
@[simp] theorem State.hostReset_head : s.hostReset.head = none := rfl
@[simp] theorem State.hostReset_tableInit : s.hostReset.tableInit = s.tableInit := rfl
@[simp] theorem State.hostReset_script : s.hostReset.script = s.script := rfl
@[simp] theorem State.hostReset_draws : s.hostReset.draws = s.draws + 1 := rfl

/-! ### State.recordError -/

@[simp] theorem State.recordError_r (c : Cause) : (s.recordError c).r = s.r := by
  unfold State.recordError; split <;> rfl
@[simp] theorem State.recordError_dout (c : Cause) : (s.recordError c).dout = s.dout := by
  unfold State.recordError; split <;> rfl
@[simp] theorem State.recordError_tvalid (c : Cause) : (s.recordError c).tvalid = s.tvalid := by
  unfold State.recordError; split <;> rfl
@[simp] theorem State.recordError_table (c : Cause) : (s.recordError c).table = s.table := by
  unfold State.recordError; split <;> rfl
@[simp] theorem State.recordError_genActive (c : Cause) : (s.recordError c).genActive = s.genActive := by
  unfold State.recordError; split <;> rfl
@[simp] theorem State.recordError_gi (c : Cause) : (s.recordError c).gi = s.gi := by
  unfold State.recordError; split <;> rfl
@[simp] theorem State.recordError_gk (c : Cause) : (s.recordError c).gk = s.gk := by
  unfold State.recordError; split <;> rfl
@[simp] theorem State.recordError_gw (c : Cause) : (s.recordError c).gw = s.gw := by
  unfold State.recordError; split <;> rfl
@[simp] theorem State.recordError_head (c : Cause) : (s.recordError c).head = s.head := by
  unfold State.recordError; split <;> rfl
@[simp] theorem State.recordError_tableInit (c : Cause) : (s.recordError c).tableInit = s.tableInit := by
  unfold State.recordError; split <;> rfl
@[simp] theorem State.recordError_script (c : Cause) : (s.recordError c).script = s.script := by
  unfold State.recordError; split <;> rfl
@[simp] theorem State.recordError_draws (c : Cause) : (s.recordError c).draws = s.draws := by
  unfold State.recordError; split <;> rfl
@[simp] theorem State.recordError_err (c : Cause) : (s.recordError c).err = true := by
  unfold State.recordError; split
  · assumption
  · rfl
@[simp] theorem State.recordError_ecause (c : Cause) :
    (s.recordError c).ecause = if s.err then s.ecause else causeCode c := by
  unfold State.recordError; split <;> rfl

end Sys2Proof.Machine
end

