-- ==== Sys2Proof/Laws/Table.lean ====
section
/-! SUPPORT. Reading and writing the table, and the pure functions over it. -/

namespace Sys2Proof.Machine

/-- Entry i of the whole table is TABLE(i). -/
theorem crcTable_get (i : Nat) (h : i < 256) : crcTable[i] = tableEntry (BitVec.ofNat 8 i) := by
  simp [crcTable]

/-- The same, for an index of the table's own width. -/
theorem crcTable_get_byte (i : Byte) : crcTable[i.toNat]'(i.isLt) = tableEntry i := by
  rw [crcTable_get]; simp

theorem tableReady_of_table_eq {s : State} (h : s.table = crcTable) : s.TableReady := by
  intro i; simp only [State.readTable, h]; exact crcTable_get_byte i

/-- A ready table is the whole table. -/
theorem table_eq_of_tableReady {s : State} (h : s.TableReady) : s.table = crcTable := by
  apply Vector.ext
  intro i hi
  have := h (BitVec.ofNat 8 i)
  simp only [State.readTable, BitVec.toNat_ofNat, Nat.mod_eq_of_lt hi] at this
  rw [this, crcTable_get i hi]

/-- Reading after a table write: the written index gives the value, every other one what it gave. -/
theorem readTable_writeTable (s : State) (i j : Byte) (v : Word) :
    (s.writeTable i v).readTable j = if j = i then v else s.readTable j := by
  simp only [State.readTable, State.writeTable, Vector.getElem_set, BitVec.toNat_eq]
  by_cases h : j.toNat = i.toNat
  · simp [h]
  · simp [h, Ne.symm h]

/-- Two readers that agree give the same core update steps. -/
theorem updatesVia_congr {f g : Byte → Word} (h : ∀ i, f i = g i) (r : Word) (bs : List Byte) :
    updatesVia f r bs = updatesVia g r bs := by
  rw [funext h]

/-- On a ready table the block's core update steps are the pure ones (rule R101). -/
theorem updatesVia_ready {s : State} (h : s.TableReady) (r : Word) (bs : List Byte) :
    updatesVia s.readTable r bs = crcUpdates r bs :=
  updatesVia_congr h r bs

@[simp] theorem updatesVia_nil (f : Byte → Word) (r : Word) : updatesVia f r [] = r := rfl

@[simp] theorem updatesVia_cons (f : Byte → Word) (r : Word) (b : Byte) (bs : List Byte) :
    updatesVia f r (b :: bs) = updatesVia f (updateVia f r b) bs := rfl

theorem genSteps_succ (n : Nat) (w : Word) : genSteps (n + 1) w = genStep (genSteps n w) := rfl

/-- The index of the update step is the low byte of R combined with the input byte (rule R101). -/
theorem updateIndex_eq (r : Word) (b : Byte) : updateIndex r b = r.setWidth 8 ^^^ b := by
  apply BitVec.eq_of_getLsbD_eq
  intro k hk
  have cases : k = 0 ∨ k = 1 ∨ k = 2 ∨ k = 3 ∨ k = 4 ∨ k = 5 ∨ k = 6 ∨ k = 7 := by omega
  simp only [updateIndex, BitVec.getLsbD_setWidth, BitVec.getLsbD_and, BitVec.getLsbD_xor]
  rcases cases with h | h | h | h | h | h | h | h <;> subst h <;> simp

end Sys2Proof.Machine
end

