-- ==== Sys2Proof/Laws/Ops.lean ====
section
/-! SUPPORT. What each shared operation can do, said once: the exception, the meanings, the generator. -/

namespace Sys2Proof.Machine

/-- The exception consumes the command and records the error; it always answers a next state. -/
theorem raiseIllegal_eq (cause : Cause) (s : State) :
    raiseIllegal cause s = .next (s.recordError cause).accept := rfl

/-- What a byte-consuming command answers. -/
theorem consumeBytes_cases (bytes : List Byte) (s : State) :
    (s.tvalid = true ∧
      consumeBytes bytes s = .next (s.writeR (updatesVia s.readTable s.r bytes)).accept) ∨
    (s.tvalid = false ∧ consumeBytes bytes s = .next s) := by
  cases h : s.tvalid <;> simp [consumeBytes, accepted, held, h]

/-- What TGEN answers (rule R86). -/
theorem execTgen_cases (s : State) :
    (s.genActive = true ∧ execTgen s = .next s) ∨
    (s.genActive = false ∧ s.tableInit = .generate ∧ execTgen s = .next s.startGeneration.accept) ∨
    (s.genActive = false ∧ s.tableInit = .rom ∧ execTgen s = .next s.accept) := by
  cases h : s.genActive <;> cases h' : s.tableInit <;> simp [execTgen, accepted, held, h, h']

/-- What RDTAB answers (rule R124). -/
theorem execRdtab_cases (idx : Byte) (s : State) :
    (s.tvalid = true ∧ execRdtab idx s = .next (s.writeDout (s.readTable idx)).accept) ∨
    (s.tvalid = false ∧ execRdtab idx s = .next s) := by
  cases h : s.tvalid <;> simp [execRdtab, accepted, held, h]

/-- What an instruction that is not held does to the state. -/
def State.effect (s : State) : Instr → State
  | .nop => s
  | .tgen => match s.tableInit with
    | .generate => s.startGeneration
    | .rom => s
  | .init => s.writeR Config.initialR
  | .load din => s.writeR din
  | .upd b => s.writeR (updatesVia s.readTable s.r [b])
  | .updw cnt din => s.writeR (updatesVia s.readTable s.r (laneBytes cnt din))
  | .rdraw => s.writeDout s.r
  | .rdfin => s.writeDout (crcFinal s.r)
  | .rdtab idx => s.writeDout (s.readTable idx)

/-- Everything `exec` can do: a held instruction changes nothing, another one has its effect and is
consumed (rules R48 and R187). -/
theorem exec_eq (i : Instr) (s : State) :
    exec i s = .next (if s.holds i then s else (s.effect i).accept) := by
  cases i with
  | upd b => cases h : s.tvalid <;> simp [exec, execUpd, consumeBytes, State.holds, State.effect, accepted, held, h]
  | updw n d => cases h : s.tvalid <;> simp [exec, execUpdw, consumeBytes, State.holds, State.effect, accepted, held, h]
  | rdtab x => cases h : s.tvalid <;> simp [exec, execRdtab, State.holds, State.effect, accepted, held, h]
  | tgen =>
    cases h : s.genActive <;> cases h' : s.tableInit <;>
      simp [exec, execTgen, State.holds, State.effect, accepted, held, h, h']
  | _ => rfl

/-- Everything a command can do: an illegal one records the error, a legal one is its instruction. -/
theorem execCommand_eq (c : Command) (s : State) :
    execCommand c s = .next (match decode c with
      | .command i => if s.holds i then s else (s.effect i).accept
      | .illegal cause => (s.recordError cause).accept) := by
  unfold execCommand
  cases decode c with
  | command i => exact exec_eq i s
  | illegal cause => rfl

/-- Everything a generator step can do (rule R84). -/
theorem generatorStep_cases (s : State) :
    (s.genActive = false ∧ generatorStep s = s) ∨
    (s.genActive = true ∧ s.gk.toNat < 8 ∧
      generatorStep s = { s with gw := genStep s.gw, gk := s.gk + 1#4 }) ∨
    (s.genActive = true ∧ 8 ≤ s.gk.toNat ∧ s.gi = 255#8 ∧
      generatorStep s = { s.writeTable s.gi s.gw with genActive := false, tvalid := true }) ∨
    (s.genActive = true ∧ 8 ≤ s.gk.toNat ∧ s.gi ≠ 255#8 ∧
      generatorStep s = { s.writeTable s.gi s.gw with
        gi := s.gi + 1#8, gk := 0#4, gw := (s.gi + 1#8).setWidth 32 }) := by
  unfold generatorStep
  cases hA : s.genActive with
  | false => simp
  | true =>
    by_cases hK : s.gk.toNat < 8
    · right; left
      have : s.gk < 8#4 := by simpa [BitVec.lt_def] using hK
      simp [hK, this]
    · have : ¬ s.gk < 8#4 := by simpa [BitVec.lt_def] using hK
      by_cases hI : s.gi = 255#8 <;> simp [this, hI] <;> omega

end Sys2Proof.Machine
end

