-- ==== Sys2Proof/Laws/Generator.lean ====
section
/-! SUPPORT. The generator's progress and its frame, and the frame of a command's effect. -/

namespace Sys2Proof.Machine

/-- GI + 1 does not wrap before the last entry. -/
theorem gi_succ {g : BitVec 8} (h : g ≠ 255#8) : (g + 1#8).toNat = g.toNat + 1 := by
  have := g.isLt
  have : g.toNat ≠ 255 := fun h' => h (by apply BitVec.eq_of_toNat_eq; simpa using h')
  simp [BitVec.toNat_add]; omega

/-- GK + 1 does not wrap below 8. -/
theorem gk_succ {g : BitVec 4} (h : g.toNat < 8) : (g + 1#4).toNat = g.toNat + 1 := by
  simp [BitVec.toNat_add]; omega

/-- How many generator steps a generation in progress still needs (rule R84). -/
def State.stepsToGo (s : State) : Nat := (255 - s.gi.toNat) * 9 + (8 - s.gk.toNat) + 1

/-- An active generation is one step from its end, or one step nearer to it after a step. -/
theorem generatorStep_progress {s : State} (a : s.genActive = true) (hk : s.gk.toNat ≤ 8) :
    (s.stepsToGo = 1 ∧ (generatorStep s).genActive = false ∧ (generatorStep s).tvalid = true) ∨
    ((generatorStep s).genActive = true ∧ (generatorStep s).tvalid = s.tvalid ∧
      (generatorStep s).gk.toNat ≤ 8 ∧ s.stepsToGo = (generatorStep s).stepsToGo + 1) := by
  have hgi := s.gi.isLt
  rcases generatorStep_cases s with ⟨b, e⟩ | ⟨_, k, e⟩ | ⟨_, k, i, e⟩ | ⟨_, k, i, e⟩
  · simp [a] at b
  · right; rw [e]; simp only [State.stepsToGo, gk_succ k, a, true_and]; omega
  · left; rw [e]; refine ⟨?_, rfl, rfl⟩; simp [State.stepsToGo, i]; omega
  · right; rw [e]; refine ⟨a, rfl, by simp, ?_⟩
    have : s.gi.toNat ≠ 255 := fun h' => i (by apply BitVec.eq_of_toNat_eq; simpa using h')
    simp only [State.stepsToGo, gi_succ i]; simp; omega

/-- A generation that needs more than k steps is still active after k. -/
theorem generatorSteps_active : ∀ (k : Nat) (s : State), s.genActive = true → s.gk.toNat ≤ 8 →
    k < s.stepsToGo →
    (generatorSteps k s).genActive = true ∧ (generatorSteps k s).tvalid = s.tvalid
  | 0, _, a, _, _ => ⟨a, rfl⟩
  | k + 1, s, a, hk, h => by
    rcases generatorStep_progress a hk with ⟨r, _⟩ | ⟨x, y, z, w⟩
    · omega
    · have := generatorSteps_active k _ x z (by omega)
      rw [y] at this; exact this

/-- A generation has ended after the steps it needs. -/
theorem generatorSteps_done : ∀ (k : Nat) (s : State), s.genActive = true → s.gk.toNat ≤ 8 →
    k = s.stepsToGo →
    (generatorSteps k s).genActive = false ∧ (generatorSteps k s).tvalid = true
  | 0, s, _, _, h => by simp [State.stepsToGo] at h
  | k + 1, s, a, hk, h => by
    rcases generatorStep_progress a hk with ⟨r, x⟩ | ⟨x, y, z, w⟩
    · have : k = 0 := by omega
      subst this; exact x
    · exact generatorSteps_done k _ x z (by omega)

/-- What a generator step leaves alone. -/
theorem generatorStep_frame (s : State) :
    (generatorStep s).observed = s.observed ∧ (generatorStep s).head = s.head ∧
    (generatorStep s).script = s.script ∧ (generatorStep s).tableInit = s.tableInit ∧
    (generatorStep s).draws = s.draws := by
  rcases generatorStep_cases s with ⟨_, e⟩ | ⟨_, _, e⟩ | ⟨_, _, _, e⟩ | ⟨_, _, _, e⟩ <;> rw [e] <;>
    exact ⟨rfl, rfl, rfl, rfl, rfl⟩

/-- A generator step neither reads nor writes what the commands that are never held write. -/
theorem generatorStep_indep (s : State) (r d : Word) (e : Bool) (c : BitVec 4) (h : Option Command) :
    generatorStep { s with r := r, dout := d, err := e, ecause := c, head := h } =
      { generatorStep s with r := r, dout := d, err := e, ecause := c, head := h } := by
  unfold generatorStep
  simp only
  split
  · split
    · rfl
    · split <;> rfl
  · rfl

/-- What the effect of any instruction leaves alone. -/
theorem effect_frame (s : State) (i : Instr) :
    (s.effect i).script = s.script ∧ (s.effect i).head = s.head ∧ (s.effect i).table = s.table ∧
    (s.effect i).err = s.err ∧ (s.effect i).ecause = s.ecause ∧
    (s.effect i).tableInit = s.tableInit ∧ (s.effect i).draws = s.draws := by
  cases i with
  | tgen => cases h : s.tableInit <;> simp [State.effect, h]
  | _ => exact ⟨rfl, rfl, rfl, rfl, rfl, rfl, rfl⟩

/-- On a ready table, or where the table is not read, the effect of an instruction is the pure one. -/
theorem effect_observed {s : State} (h : s.tvalid = true → s.TableReady) (i : Instr)
    (hn : s.holds i = false) : (s.effect i).observed = pureInstr i s.observed := by
  have ready : (!s.tvalid) = false → s.TableReady := fun ht => h (by simpa using ht)
  cases i with
  | tgen => simp only [State.effect]; cases s.tableInit <;> rfl
  | upd b => simp only [State.effect, updatesVia_ready (ready hn)]; rfl
  | updw n d => simp only [State.effect, updatesVia_ready (ready hn)]; rfl
  | rdtab x => simp only [State.effect, ready hn x]; rfl
  | _ => rfl

/-- What recording an error does to the observed values. -/
theorem recordError_observed (s : State) (c : Cause) :
    (s.recordError c).observed =
      if s.err then s.observed else { s.observed with err := true, ecause := causeCode c } := by
  unfold State.recordError
  split <;> rfl

end Sys2Proof.Machine
end

