-- ==== Sys2Proof/Laws/Step.lean ====
section
/-! SUPPORT. What a step can do, said once. -/

namespace Sys2Proof.Machine

/-- The state the engine's turn leaves. -/
def State.afterEngine (s : State) : State :=
  match s.head with
  | none => s
  | some c => match decode c with
    | .command i => if s.holds i then s else (s.effect i).accept
    | .illegal cause => (s.recordError cause).accept

theorem engineStep_eq (s : State) : engineStep s = .next s.afterEngine := by
  unfold engineStep State.afterEngine
  cases s.head with
  | none => rfl
  | some c => exact execCommand_eq c s

/-- The state a move leaves. -/
def State.afterMove (s : State) : Event → State
  | .reset => s.hostReset
  | .present c => s.present c
  | .engine => s.afterEngine
  | .generator => generatorStep s
  | .idle => s

theorem doMove_eq (m : Event) (s : State) : doMove m s = .next (s.afterMove m) := by
  cases m with
  | engine => exact engineStep_eq s
  | _ => rfl

/-- Everything a step can do: the next move is made, with the script taken up to after it. -/
theorem step_eq (s : State) :
    step s = .next ((s.withScript s.nextMove.2).afterMove s.nextMove.1) :=
  doMove_eq _ _

/-- The one state a step answers. -/
theorem step_next_iff (s t : State) :
    step s = .next t ↔ (s.withScript s.nextMove.2).afterMove s.nextMove.1 = t := by
  rw [step_eq]; constructor
  · intro h; injection h
  · intro h; rw [h]

/-- A command is presented only while nothing is at the head (rule R25). -/
theorem nextMove_present {s : State} {c : Command} (h : s.nextMove.1 = .present c) :
    s.head = none ∧ s.script = .present c :: s.nextMove.2 := by
  unfold State.nextMove State.freeTurn at h ⊢
  cases hs : s.script with
  | nil => cases hh : s.head <;> simp [hs, hh] at h <;> grind
  | cons e rest =>
    cases e with
    | present d =>
      cases hh : s.head with
      | none => simp [hs, hh] at h ⊢; exact h
      | some c' => simp [hs, hh] at h; grind
    | _ => simp [hs] at h

/-- One step and then k steps are k + 1 steps. -/
theorem runFrom_succ (k : Nat) (s : State) :
    runFrom (k + 1) s = runFrom k ((s.withScript s.nextMove.2).afterMove s.nextMove.1) := by
  have h : core.step s = .next ((s.withScript s.nextMove.2).afterMove s.nextMove.1) := step_eq s
  unfold runFrom
  simp only [Host.Core.run]
  rw [h]

@[simp] theorem runFrom_zero (s : State) : runFrom 0 s = .next s := rfl

/-- Runs compose. -/
theorem runFrom_add {j k : Nat} {s t : State} (h : runFrom j s = .next t) :
    runFrom (j + k) s = runFrom k t := by
  induction j generalizing s with
  | zero => simp at h; simp [h]
  | succ j ih =>
    rw [runFrom_succ] at h
    rw [Nat.succ_add, runFrom_succ]
    exact ih h

/-- A run never stops. -/
theorem runFrom_next (k : Nat) (s : State) : ∃ t, runFrom k s = .next t := by
  induction k generalizing s with
  | zero => exact ⟨s, rfl⟩
  | succ k ih => rw [runFrom_succ]; exact ih _

/-- What holds at the start and is kept by every step holds after every run. -/
theorem runFrom_induction {P : State → Prop}
    (keep : ∀ s, P s → P ((s.withScript s.nextMove.2).afterMove s.nextMove.1))
    {k : Nat} {s t : State} (hs : P s) (h : runFrom k s = .next t) : P t := by
  induction k generalizing s with
  | zero => simp at h; exact h ▸ hs
  | succ k ih => rw [runFrom_succ] at h; exact ih (keep s hs) h

/-- Executing one command and then a list of them. -/
theorem execAll_cons (i : Instr) (rest : List Instr) (s : State) :
    execAll (i :: rest) s = execAll rest (if s.holds i then s else (s.effect i).accept) := by
  rw [execAll, exec_eq]

@[simp] theorem execAll_nil (s : State) : execAll [] s = .next s := rfl

end Sys2Proof.Machine
end

