-- ==== Sys2Proof/Laws/Moves.lean ====
section
/-! SUPPORT. What a move does to the script, and what the choice of the next move takes from it. -/

namespace Sys2Proof.Machine

/-- No move changes the script: only the choice of the move takes from it. -/
theorem afterMove_script (s : State) (m : Event) : (s.afterMove m).script = s.script := by
  cases m with
  | engine =>
    unfold State.afterMove State.afterEngine
    cases s.head with
    | none => rfl
    | some c =>
      simp only; cases decode c with
      | illegal _ => simp
      | command i => simp only; split <;> simp [(effect_frame s i).1]
  | generator => exact (generatorStep_frame s).2.2.1
  | _ => rfl

/-- What is left of the script was in it. -/
theorem nextMove_script_mem (s : State) : ∀ e ∈ s.nextMove.2, e ∈ s.script := by
  unfold State.nextMove
  cases s.script with
  | nil => simp
  | cons e rest => cases e <;> cases s.head <;> simp <;> intro a b <;> simp [b]

/-- A reset happens only where the script has it. -/
theorem nextMove_reset_mem {s : State} (h : s.nextMove.1 = .reset) : Event.reset ∈ s.script := by
  unfold State.nextMove State.freeTurn at h
  revert h
  cases s.script with
  | nil => cases s.head <;> simp <;> grind
  | cons e rest => cases e <;> cases s.head <;> simp <;> grind

/-- A move that presents nothing leaves the commands to be presented as they are. -/
theorem nextMove_presented {s : State} (h : ∀ c, s.nextMove.1 ≠ .present c) :
    s.nextMove.2.filterMap Event.presented = s.script.filterMap Event.presented := by
  revert h; unfold State.nextMove State.freeTurn
  cases s.script with
  | nil => intro _; rfl
  | cons e rest => cases e <;> cases s.head <;> simp [List.filterMap_cons, Event.presented]

end Sys2Proof.Machine
end

