-- ==== Sys2Proof/Laws/PerInstr.lean ====
section
/-! SUPPORT. A law of every instruction as syntax: its word is legal. -/

/-- The family "encodes a legal word": the instruction is well formed, and the command word it encodes to
matches exactly one row of the opcode table (rule R63). -/
def Sys2Proof.Laws.EncodesLegalWord.Statement (i : Sys2Proof.Instr) : Prop :=
  i.wellFormed = true ∧ Sys2Proof.legalWord (Sys2Proof.encode i).cmd = true

namespace Sys2Proof.Laws.EncodesLegalWord

theorem nop : Statement .nop := ⟨rfl, by decide⟩

theorem tgen : Statement .tgen := ⟨rfl, by decide⟩

theorem init : Statement .init := ⟨rfl, by decide⟩

theorem load (din : Word) : Statement (.load din) := ⟨rfl, by simp only [encode]; decide⟩

theorem upd (b : Byte) : Statement (.upd b) := by
  refine ⟨rfl, ?_⟩
  simp only [encode]; revert b; decide +kernel

theorem updw (cnt : BitVec 2) (din : Word) : Statement (.updw cnt din) := by
  refine ⟨rfl, ?_⟩
  simp only [encode]; revert cnt; decide +kernel

theorem rdraw : Statement .rdraw := ⟨rfl, by decide⟩

theorem rdfin : Statement .rdfin := ⟨rfl, by decide⟩

theorem rdtab (idx : Byte) : Statement (.rdtab idx) := by
  refine ⟨rfl, ?_⟩
  simp only [encode]; revert idx; decide +kernel

end Sys2Proof.Laws.EncodesLegalWord
end

