-- ==== Sys2Proof/Tests/Slice0.lean ====
section
/-! SUPPORT. Tests: words written out from the spec's encodings, ill-formed terms, one step of each command
with the values of 95_test_vectors.md, and a witness for the hypotheses of every statement. -/

namespace Sys2Proof.Tests

open Sys2Proof.Machine

/-! ## Helpers -/

/-- A block with a ROM table right after reset, its register set to r. -/
def ready (r : Word) : State := { State.resetOf .rom 0 with r := r }

/-- A GENERATE block whose generation has ended. -/
def generated : State := State.reset.afterGeneration

/-- A GENERATE block right after reset, a command at the head. -/
def waiting (c : Command) : State := { State.reset with head := some c }

/-- A field of the state a step answers. -/
def field {α : Type} (f : State → α) : Result → Option α
  | .next t => some (f t)
  | .fault _ => none
  | .refused _ => none

theorem ready_tableReady (r : Word) : (ready r).TableReady := tableReady_of_table_eq rfl

theorem generated_tableReady : generated.TableReady := tableReady_of_table_eq rfl

/-- The invariant on a fresh ROM block, whatever is at the head and in the script. -/
theorem rom_inv (h : Option Command) (l : List Event) :
    State.Inv { State.resetOf .rom 0 with head := h, script := l } := by
  refine ⟨rfl, fun _ => tableReady_of_table_eq rfl, fun h => ?_, Nat.zero_le 8, rfl, fun _ => rfl,
    Nat.zero_le 2, ⟨fun _ => rfl, fun _ => rfl⟩⟩
  cases h

/-- The invariant on a fresh GENERATE block, whatever is at the head and in the script. -/
theorem generate_inv (h : Option Command) (l : List Event) :
    State.Inv { State.reset with head := h, script := l } := by
  refine ⟨rfl, fun h => ?_, fun _ i h => ?_, Nat.zero_le 8, rfl, fun h => ?_, Nat.zero_le 2,
    ⟨fun _ => rfl, fun _ => rfl⟩⟩
  · cases h
  · exact absurd h (Nat.not_lt_zero _)
  · cases h

/-! ## Decoding: words written out bit by bit from rules R61 and R63 -/

theorem test_decode_nop : decode ⟨0b00000000_00000000_00000000_00000000#32, 0#32⟩ = .command .nop := by decide
theorem test_decode_tgen : decode ⟨0b00000001_00000000_00000000_00000000#32, 0#32⟩ = .command .tgen := by decide
theorem test_decode_init : decode ⟨0b00000010_00000000_00000000_00000000#32, 0#32⟩ = .command .init := by decide
theorem test_decode_load :
    decode ⟨0b00000011_00000000_00000000_00000000#32, 0x617CB792#32⟩ = .command (.load 0x617CB792#32) := by decide
theorem test_decode_upd :
    decode ⟨0b00000100_00000000_00000000_00110001#32, 0#32⟩ = .command (.upd 0x31#8) := by decide
theorem test_decode_updw :
    decode ⟨0b00000101_00000000_00000000_00000010#32, 0x00676F64#32⟩ = .command (.updw 2#2 0x00676F64#32) := by
  decide
theorem test_decode_rdraw : decode ⟨0b00000110_00000000_00000000_00000000#32, 0#32⟩ = .command .rdraw := by decide
theorem test_decode_rdfin : decode ⟨0b00000111_00000000_00000000_00000000#32, 0#32⟩ = .command .rdfin := by decide
theorem test_decode_rdtab :
    decode ⟨0b00001000_00000000_00000000_10000000#32, 0#32⟩ = .command (.rdtab 0x80#8) := by decide

/-- 95_test_vectors.md section 3.6: the lowest illegal OP, the highest, and an illegal OP with low bits. -/
theorem test_decode_illegal_opcode :
    decode ⟨0x09000000#32, 0#32⟩ = .illegal .illegalOpcode ∧
    decode ⟨0xFF000000#32, 0#32⟩ = .illegal .illegalOpcode ∧
    decode ⟨0x09000001#32, 0#32⟩ = .illegal .illegalOpcode := by decide

/-- 95_test_vectors.md sections 3.2 to 3.6: reserved bits at both ends of each format's ZERO field. -/
theorem test_decode_reserved_field :
    decode ⟨0x00000001#32, 0#32⟩ = .illegal .reservedField ∧
    decode ⟨0x02800000#32, 0#32⟩ = .illegal .reservedField ∧
    decode ⟨0x04000131#32, 0#32⟩ = .illegal .reservedField ∧
    decode ⟨0x08000100#32, 0#32⟩ = .illegal .reservedField ∧
    decode ⟨0x05000004#32, 0#32⟩ = .illegal .reservedField := by decide

theorem test_tableWord : decodeTableWord 32 0x080000FF = some (.rdtab 0xFF#8) ∧
    decodeTableWord 32 0x05000003 = some (.updw 3#2 0#32) ∧ decodeTableWord 32 0x09000000 = none := by decide

/-! ## Ill-formed terms, one for each check -/

theorem test_illFormed_no_row : legalWord 0x09000000#32 = false := by decide
theorem test_illFormed_zero24 : legalWord 0x00000001#32 = false := by decide
theorem test_illFormed_zero16 : legalWord 0x04000100#32 = false := by decide
theorem test_illFormed_zero22 : legalWord 0x05000004#32 = false := by decide
theorem test_wellFormed_word : legalWord 0x05000003#32 = true := by decide
theorem test_asm_refuses_load : Asm.accepted (.load 0x100000000) = false := by decide
theorem test_asm_refuses_upd : Asm.accepted (.upd 0x100) = false := by decide
theorem test_asm_refuses_updw_counts :
    Asm.accepted (.updw 0 0) = false ∧ Asm.accepted (.updw 5 0) = false := by decide
theorem test_asm_refuses_updw_data : Asm.accepted (.updw 4 0x100000000) = false := by decide
theorem test_asm_refuses_rdtab : Asm.accepted (.rdtab 0x100) = false := by decide
theorem test_asm_refuses_word : Asm.accepted (.word 0x100000000) = false := by decide

/-! ## One step of each command, with the values of 95_test_vectors.md section 3 -/

theorem test_nop : field State.r (exec .nop (ready 0x12345678#32)) = some 0x12345678#32 := by decide

/-- Section 3.5, first row. -/
theorem test_tgen_generate :
    field (fun t => (t.tvalid, t.genActive, t.gi, t.gk, t.r)) (exec .tgen { generated with r := 0x641C1F5C#32 }) =
      some (false, true, 0#8, 0#4, 0x641C1F5C#32) := by decide

/-- Section 3.5, third row. -/
theorem test_tgen_rom : field (fun t => (t.tvalid, t.genActive)) (exec .tgen (ready 0#32)) = some (true, false) := by
  decide

theorem test_init : field State.r (exec .init (ready 0x340BC6D9#32)) = some 0xFFFFFFFF#32 := by decide

theorem test_load : field State.r (exec (.load 0x617CB792#32) (ready 0#32)) = some 0x617CB792#32 := by decide

/-- Section 3.2: ASCII "1" from the initial value. -/
theorem test_upd : field State.r (exec (.upd 0x31#8) (ready 0xFFFFFFFF#32)) = some 0x7C231048#32 := by
  decide +kernel

/-- Section 3.2: the row with register 0xDEADBEEF. -/
theorem test_upd_mixed : field State.r (exec (.upd 0xA5#8) (ready 0xDEADBEEF#32)) = some 0x96D70530#32 := by
  decide +kernel

/-- Section 3.3: three lanes, the fourth ignored. -/
theorem test_updw_three : field State.r (exec (.updw 2#2 0x34333231#32) (ready 0xFFFFFFFF#32)) =
    some 0x77B79C2D#32 := by decide +kernel

/-- Section 3.3: the lane-order check. -/
theorem test_updw_lane_order : field State.r (exec (.updw 3#2 0x31323334#32) (ready 0xFFFFFFFF#32)) =
    some 0x3B714097#32 := by decide +kernel

theorem test_rdraw : field (fun t => (t.r, t.dout)) (exec .rdraw (ready 0x641C1F5C#32)) =
    some (0x641C1F5C#32, 0x641C1F5C#32) := by decide

theorem test_rdfin : field (fun t => (t.r, t.dout)) (exec .rdfin (ready 0x340BC6D9#32)) =
    some (0x340BC6D9#32, 0xCBF43926#32) := by decide

theorem test_rdtab : field State.dout (exec (.rdtab 0xFF#8) (ready 0#32)) = some 0x2D02EF8D#32 := by
  decide +kernel

/-- Section 3.4: RDTAB is held while TVALID = 0. -/
theorem test_rdtab_held :
    field (fun t => (t.dout, t.head)) (engineStep (waiting ⟨0x08000000#32, 0#32⟩)) =
      some (0#32, some ⟨0x08000000#32, 0#32⟩) := by decide

/-- Section 3.1: GENSTEP traces. -/
theorem test_genStep : genStep 0x00000001#32 = 0xEDB88320#32 ∧ genStep 0x00000080#32 = 0x00000040#32 ∧
    genStep 0x000000FF#32 = 0xEDB8835F#32 := by decide

/-- Section 3.1: the write of entry 0 leaves GI = 1, GK = 0, GW = 1. -/
theorem test_generator_writes_entry :
    (fun t : State => (t.readTable 0#8, t.gi, t.gk, t.gw, t.tvalid))
      (generatorStep { State.reset with gk := 8#4 }) = (0#32, 1#8, 0#4, 1#32, false) := by decide

/-- Section 3.1: the write of the last entry ends the generation. -/
theorem test_generator_ends :
    (fun t : State => (t.readTable 0xFF#8, t.genActive, t.tvalid))
      (generatorStep { State.reset with gi := 255#8, gk := 8#4, gw := 0x2D02EF8D#32 }) =
      (0x2D02EF8D#32, false, true) := by decide +kernel

/-! ## IllegalCommand: 95_test_vectors.md section 3.6 -/

theorem test_first_error : field (fun t => (t.err, t.ecause, t.head)) (engineStep (waiting ⟨0x0A000000#32, 0#32⟩)) =
    some (true, 1#4, none) := by decide

theorem test_later_error_keeps_cause :
    field (fun t => (t.err, t.ecause)) (execCommand ⟨0x09000000#32, 0#32⟩
      { ready 0#32 with err := true, ecause := 2#4 }) = some (true, 2#4) := by decide

/-- Section 4, P3: STATUS = 0x13 is TVALID = 1, ERR = 1, ECAUSE = 1. -/
theorem test_status : State.status { ready 0#32 with err := true, ecause := 1#4 } = 0x00000013#32 := by decide

/-! ## The machine's step -/

theorem test_reset_observed : (State.reset.r, State.reset.dout, State.reset.status, State.reset.genActive) =
    (0xFFFFFFFF#32, 0#32, 0#32, true) := by decide

theorem test_present_then_accept :
    field (fun t => (t.head, t.script)) (step { ready 0#32 with script := [.present ⟨0#32, 0#32⟩] }) =
      some (some ⟨0#32, 0#32⟩, []) := by decide

/-- Rule R181: a command not accepted is discarded by reset. -/
theorem test_reset_discards_head :
    field (fun t => (t.head, t.r)) (step { ready 0#32 with head := some ⟨0x02000000#32, 0#32⟩, script := [.reset] }) =
      some (none, 0xFFFFFFFF#32) := by decide

theorem test_placed_rdtab_runs_first :
    field State.dout (step (State.reset.withFetchWord 32 0x08000080)) = some 0xEDB88320#32 := by decide +kernel

/-- Rule R68's example of the canonical expansion: "fox" has a short last group. -/
theorem test_feed : feed [0x66#8, 0x6F#8, 0x78#8] = [.updw 2#2 0x00786F66#32] := by decide

/-! ## Witnesses: a state and operands that meet the hypotheses of each statement -/

theorem witness_DecodeFollowsFieldChecks :
    (0x09000000#32 >>> 24 > 8#32 ∧ 0xFF000000#32 >>> 24 > 8#32) ∧
    (0x04000100#32 >>> 24 = 4#32 ∧ 0x04000100#32 &&& 0x00FFFF00#32 ≠ 0#32) ∧
    (0x08800000#32 >>> 24 = 8#32 ∧ 0x08800000#32 &&& 0x00FFFF00#32 ≠ 0#32) ∧
    (0x05000004#32 >>> 24 = 5#32 ∧ 0x05000004#32 &&& 0x00FFFFFC#32 ≠ 0#32) ∧
    (0x00000001#32 >>> 24 = 0#32 ∧ 0x07800000#32 >>> 24 = 7#32 ∧ 0x07800000#32 &&& 0x00FFFFFF#32 ≠ 0#32) ∧
    (0x04000000#32 >>> 24 = 4#32 ∧ 0x040000FF#32 &&& 0x00FFFF00#32 = 0#32) ∧
    (0x05000003#32 >>> 24 = 5#32 ∧ 0x05000003#32 &&& 0x00FFFFFC#32 = 0#32) ∧
    (0x080000FF#32 >>> 24 = 8#32 ∧ 0x080000FF#32 &&& 0x00FFFF00#32 = 0#32) ∧
    (0x01000000#32 >>> 24 = 1#32 ∧ 0x02000000#32 >>> 24 = 2#32 ∧ 0x03000000#32 >>> 24 = 3#32 ∧
      0x06000000#32 >>> 24 = 6#32 ∧ 0x06000000#32 &&& 0x00FFFFFF#32 = 0#32) := by decide

theorem witness_LegalWordsMatchOneTableRow :
    (opcodeTable.filter (·.matches 0x05000003#32)).length = 1 ∧
    (opcodeTable.filter (·.matches 0x05000004#32)).length = 0 := by decide

theorem witness_EncodeOfDecodeIsTheWord :
    decode ⟨0x03000000#32, 0xFFFFFFFF#32⟩ = .command (.load 0xFFFFFFFF#32) ∧
    decode ⟨0x07000000#32, 0xFFFFFFFF#32⟩ = .command .rdfin := by decide

theorem witness_IgnoredDinBitsChangeNothing :
    (0x04000031#32 >>> 24 ≠ 3#32 ∧ 0x04000031#32 >>> 24 ≠ 5#32) ∧
    (0x05000000#32 >>> 24 = 5#32 ∧ ∀ j : Nat, j ≤ ((0x05000000#32).setWidth 2 : BitVec 2).toNat →
      (0xDEADBE61#32).extractLsb' (8 * j) 8 = (0x00000061#32).extractLsb' (8 * j) 8) := by
  refine ⟨by decide, by decide, fun j hj => ?_⟩
  have : j = 0 := by simpa using hj
  subst this; decide

theorem witness_AssemblerEmitsAndRefuses :
    (0xFFFFFFFF < 2 ^ 32 ∧ 0xFF ≤ 0xFF ∧ 1 ≤ 1 ∧ 1 ≤ 4 ∧ 4 ≤ 4) ∧ 2 ^ 32 ≤ 0x100000000 ∧ 0xFF < 0x100 ∧ 4 < 5 := by
  decide

/-- The hypotheses of RejectsReserved, for each of the nine OPs. -/
theorem witness_RejectsReserved :
    (0x00000001#32 >>> 24 = 0#32 ∧ 0x00000001#32 &&& 0x00FFFFFF#32 ≠ 0#32) ∧
    (0x01000080#32 >>> 24 = 1#32 ∧ 0x01000080#32 &&& 0x00FFFFFF#32 ≠ 0#32) ∧
    (0x02800000#32 >>> 24 = 2#32 ∧ 0x02800000#32 &&& 0x00FFFFFF#32 ≠ 0#32) ∧
    (0x03000001#32 >>> 24 = 3#32 ∧ 0x03000001#32 &&& 0x00FFFFFF#32 ≠ 0#32) ∧
    (0x04000100#32 >>> 24 = 4#32 ∧ 0x04000100#32 &&& 0x00FFFF00#32 ≠ 0#32) ∧
    (0x05000004#32 >>> 24 = 5#32 ∧ 0x05000004#32 &&& 0x00FFFFFC#32 ≠ 0#32) ∧
    (0x06000100#32 >>> 24 = 6#32 ∧ 0x06000100#32 &&& 0x00FFFFFF#32 ≠ 0#32) ∧
    (0x07800000#32 >>> 24 = 7#32 ∧ 0x07800000#32 &&& 0x00FFFFFF#32 ≠ 0#32) ∧
    (0x08000100#32 >>> 24 = 8#32 ∧ 0x08000100#32 &&& 0x00FFFF00#32 ≠ 0#32) := by decide

theorem witness_NopHasNoEffect : ∀ s : State, exec .nop s = .next { s with head := none } := fun _ => rfl

theorem witness_TgenRebuildsTheTable :
    State.reset.genActive = true ∧
    (generated.genActive = false ∧ generated.tableInit = .generate ∧ generated.TableReady) ∧
    ((ready 0#32).genActive = false ∧ (ready 0#32).tableInit = .rom) :=
  ⟨rfl, ⟨rfl, rfl, generated_tableReady⟩, rfl, rfl⟩

/-- A valid and ready table: the hypotheses of the statements about LOAD, RDRAW, RDFIN, RDTAB, UPD and UPDW,
and of UpdwEqualsUpdsInLaneOrder; and a state in which a table reader is held. -/
theorem witness_table_readers :
    ((ready 0#32).tvalid = true ∧ (ready 0#32).TableReady) ∧ State.reset.tvalid = false ∧
    (ready 0xFFFFFFFF#32).r = 0xFFFFFFFF#32 ∧ (ready 0#32).r = 0#32 :=
  ⟨⟨rfl, ready_tableReady _⟩, rfl, rfl, rfl⟩

theorem witness_RdfinReturnsTheChecksum :
    exec .rdfin (ready 0#32) = .next { ready 0#32 with dout := crcFinal 0#32 } := rfl

theorem witness_CommandFrames : exec .rdraw (ready 5#32) = .next { ready 5#32 with dout := 5#32 } := rfl

theorem witness_ReadCommandsAreIdempotent :
    exec (.rdtab 0xFF#8) State.reset = .next State.reset ∧
    exec .rdraw (ready 5#32) = .next { ready 5#32 with dout := 5#32 } := ⟨rfl, rfl⟩

theorem witness_GenerationTakes2304Steps :
    generated.genActive = false ∧ (State.reset.genActive = true ∧ State.reset.gk.toNat < 8) ∧
    (State.genActive { State.reset with gk := 8#4, gi := 255#8 } = true ∧
      State.gk { State.reset with gk := 8#4, gi := 255#8 } = 8#4) ∧
    (State.gk { State.reset with gk := 8#4 } = 8#4 ∧ State.gi { State.reset with gk := 8#4 } ≠ 255#8) := by
  decide

theorem witness_OnlyResetAndTgenStartGenerations :
    (generated.tableInit = .generate ∧ (generated.withScript [.reset]).nextMove.1 = .reset) ∧
    (State.genActive { generated with head := some ⟨0x01000000#32, 0#32⟩ } = false ∧
      State.nextMove { generated with head := some ⟨0x01000000#32, 0#32⟩ } = (.engine, []) ∧
      decode ⟨0x01000000#32, 0#32⟩ = .command .tgen ∧
      field State.genActive (step { generated with head := some ⟨0x01000000#32, 0#32⟩ }) = some true) := by
  decide

theorem witness_RomTableIsConstant :
    (State.resetOf .rom 0).Inv ∧ (State.resetOf .rom 0).tableInit = .rom ∧
    step (State.resetOf .rom 0) = .next (State.resetOf .rom 0) := ⟨rom_inv none [], rfl, rfl⟩

theorem witness_OnlyTheGeneratorWritesTheTable :
    ∃ s t : State, step s = .next t ∧ t.table ≠ s.table := by
  refine ⟨{ State.resetOf .rom 0 with genActive := true, gk := 8#4, gw := 1#32 }, _, step_eq _, fun h => ?_⟩
  have h0 : (Vector.set crcTable 0 1#32)[0] = crcTable[0] := congrArg (·[0]) h
  rw [Vector.getElem_set_self] at h0
  exact absurd h0 (by decide)

theorem witness_equal_lengths : [0x31#8].length = [0x30#8].length := rfl

theorem witness_injectivity :
    (tableEntry 1#8).extractLsb' 24 8 = (tableEntry 1#8).extractLsb' 24 8 ∧ (1#8 ≠ 0#8) ∧
    crcUpdate 1#32 0#8 = crcUpdate 1#32 0#8 := by decide

theorem witness_FeedExpansionConsumesTheBytes :
    Instr.updw 3#2 0x34333231#32 ∈ (feed [0x31#8, 0x32#8, 0x33#8, 0x34#8, 0x35#8]).dropLast ∧
    Instr.updw 1#2 0x00003231#32 ∈ feed [0x31#8, 0x32#8] ∧ (1#2).toNat < 2 := by decide

/-- A feeding of "12" by an UPD and an UPDW of one byte. -/
theorem witness_feedsBytes : FeedsBytes [.upd 0x31#8, .updw 0#2 0xFFFFFF32#32] [0x31#8, 0x32#8] := by
  refine ⟨?_, by decide⟩
  decide

theorem witness_feedsBytes_check_value :
    FeedsBytes (feed [0x31#8, 0x32#8, 0x33#8, 0x34#8, 0x35#8, 0x36#8, 0x37#8, 0x38#8, 0x39#8])
      [0x31#8, 0x32#8, 0x33#8, 0x34#8, 0x35#8, 0x36#8, 0x37#8, 0x38#8, 0x39#8] := by
  refine ⟨?_, by decide⟩
  decide

/-- A block still generating, a host about to compute, and a feeding: the hypotheses of the statements about
ComputeChecksum, ContinueChecksum, and the empty input and check value. -/
theorem witness_checksum_operations :
    let computing : State :=
      { State.reset with head := none, script := presentAll (crcCompute [.upd 0x31#8, .updw 0#2 0xFFFFFF32#32]) }
    let continuing : State :=
      { State.reset with head := none, script := presentAll (crcContinue [] 5#32) }
    computing.Inv ∧ computing.head = none ∧
      computing.script = presentAll (crcCompute [.upd 0x31#8, .updw 0#2 0xFFFFFF32#32]) ∧
    continuing.Inv ∧ continuing.head = none ∧ continuing.script = presentAll (crcContinue [] 5#32) ∧
    FeedsBytes [] [] :=
  ⟨generate_inv _ _, rfl, rfl, generate_inv _ _, rfl, rfl, by simp [FeedsBytes]⟩

/-- The third clause of EmptyInputAndCheckValue. -/
theorem witness_check_value_sequence :
    let fed := feed [0x31#8, 0x32#8, 0x33#8, 0x34#8, 0x35#8, 0x36#8, 0x37#8, 0x38#8, 0x39#8]
    let s : State := { State.reset with head := none, script := presentAll (crcCompute fed) }
    s.Inv ∧ s.head = none ∧ s.script = presentAll (crcCompute fed) ∧
      FeedsBytes fed [0x31#8, 0x32#8, 0x33#8, 0x34#8, 0x35#8, 0x36#8, 0x37#8, 0x38#8, 0x39#8] :=
  ⟨generate_inv _ _, rfl, rfl, witness_feedsBytes_check_value⟩

theorem witness_FinishingTwoWaysAgrees :
    (ready 0#32).tvalid = true ∧ (ready 0#32).TableReady ∧
    FeedsBytes [.upd 0x31#8, .updw 0#2 0xFFFFFF32#32] [0x31#8, 0x32#8] :=
  ⟨rfl, ready_tableReady _, witness_feedsBytes⟩

/-- Two chunks, the second empty, and two feedings of the same bytes. -/
theorem witness_ChainingLaw :
    (ready 0#32).tvalid = true ∧ (ready 0#32).TableReady ∧
    FeedsBytes [.upd 0x31#8, .updw 0#2 0xFFFFFF32#32] [0x31#8, 0x32#8] ∧ FeedsBytes [] [] ∧
    FeedsBytes (feed [0x31#8, 0x32#8]) ([0x31#8, 0x32#8] ++ []) :=
  ⟨rfl, ready_tableReady _, witness_feedsBytes, by simp [FeedsBytes], by decide, by decide⟩

theorem witness_SavedComputationsResume :
    execAll [.init] (ready 5#32) = .next (ready 0xFFFFFFFF#32) := rfl

theorem witness_IllegalCommandRecordsFirstCause :
    (decode ⟨0xFF000000#32, 0#32⟩ = .illegal .illegalOpcode ∧ (ready 0#32).err = false) ∧
    State.err { ready 0#32 with err := true } = true ∧
    State.head { ready 0#32 with script := [.present ⟨0#32, 0#32⟩] } = none ∧
    exec .nop (ready 0#32) = .next (ready 0#32) := ⟨by decide, rfl, rfl, rfl⟩

theorem witness_ErrorRecordIsStickyAndFirst :
    (step (ready 0#32) = .next (ready 0#32) ∧ (ready 0#32).nextMove.1 ≠ .reset ∧ (ready 0#32).err = false) ∧
    (step { ready 0#32 with err := true } = .next { ready 0#32 with err := true }) ∧
    (State.nextMove { ready 0#32 with head := some ⟨0x00000001#32, 0#32⟩ } = (.engine, []) ∧
      decode ⟨0x00000001#32, 0#32⟩ = .illegal .reservedField) ∧
    ((ready 0#32).withScript [.reset]).nextMove.1 = .reset ∧
    (State.resetOf .rom 0).Inv :=
  ⟨⟨rfl, by decide, rfl⟩, rfl, by decide, by decide, rom_inv none []⟩

theorem witness_EveryStepKeepsTheInvariant :
    (waiting ⟨0x08000000#32, 0#32⟩).Inv ∧
    step (waiting ⟨0x08000000#32, 0#32⟩) = .next (generatorStep (waiting ⟨0x08000000#32, 0#32⟩)) :=
  ⟨generate_inv _ [], rfl⟩

theorem witness_ResetSetsEveryPieceOfState :
    State.script { State.reset with script := [.reset, .idle] } = .reset :: [.idle] ∧
    State.reset.tableInit = .generate ∧ (ready 0#32).tableInit = .rom := by decide

theorem witness_StepRunsTheHeadCommand :
    State.head { waiting ⟨0x02000000#32, 0#32⟩ with script := [.engine] } = some ⟨0x02000000#32, 0#32⟩ ∧
    decode ⟨0x02000000#32, 0#32⟩ = .command .init ∧
    decode ⟨0x02000001#32, 0#32⟩ = .illegal .reservedField := by decide

theorem witness_UnscriptedTurnsServeTheHead :
    (waiting ⟨0x02000000#32, 0#32⟩).head = some ⟨0x02000000#32, 0#32⟩ ∧
    decode ⟨0x01000000#32, 0#32⟩ = .command .tgen ∧ decode ⟨0x02000000#32, 0#32⟩ = .command .init ∧
    (waiting ⟨0x02000000#32, 0#32⟩).script = [] ∧ State.reset.holds .init = false ∧
    State.reset.holds .tgen = true ∧ State.reset.genActive = true := by decide

theorem witness_PlacedInstructionRunsNext : decodeTableWord 32 0x01000000 = some .tgen := by decide

theorem witness_HeadIsHeldExactlyByTheHoldRule :
    (waiting ⟨0x05000003#32, 0#32⟩).head = some ⟨0x05000003#32, 0#32⟩ ∧
    ((waiting ⟨0x05000003#32, 0#32⟩).tvalid = (!(waiting ⟨0x05000003#32, 0#32⟩).genActive) ∧
      decode ⟨0x05000003#32, 0#32⟩ = .command (.updw 3#2 0#32) ∧
      (waiting ⟨0x05000003#32, 0#32⟩).tvalid = false ∧ 0x05000003#32 >>> 24 = 5#32) ∧
    (decode ⟨0x05000004#32, 0#32⟩ = .illegal .reservedField) := by decide

theorem witness_EveryHoldIsLifted :
    (waiting ⟨0x01000000#32, 0#32⟩).Inv ∧ (waiting ⟨0x01000000#32, 0#32⟩).script = [] ∧
    (waiting ⟨0x01000000#32, 0#32⟩).head = some ⟨0x01000000#32, 0#32⟩ ∧
    (waiting ⟨0x01000000#32, 0#32⟩).holdsCommand ⟨0x01000000#32, 0#32⟩ = true :=
  ⟨generate_inv _ [], rfl, rfl, by decide⟩

theorem witness_CommandsAreAcceptedInOrder :
    step (ready 0#32) = .next (ready 0#32) ∧ (ready 0#32).nextMove.1 ≠ .reset := ⟨rfl, by decide⟩

/-- A NOP presented and accepted in two steps: the hypotheses of the refinement. -/
theorem witness_BlockRefinesThePureOperations :
    let s : State := { State.resetOf .rom 0 with head := none, script := [.present ⟨0#32, 0#32⟩] }
    s.Inv ∧ s.NoReset ∧ runFrom 2 s = .next (State.resetOf .rom 0) ∧ (State.resetOf .rom 0).Quiet := by
  refine ⟨rom_inv _ _, ?_, rfl, rfl, rfl⟩
  simp [State.NoReset]

theorem witness_EveryStreamIsAccepted :
    let s : State := { State.reset with head := some ⟨0x01000000#32, 0#32⟩, script := [.idle, .generator] }
    s.Inv ∧ s.NoReset := by
  refine ⟨generate_inv _ _, ?_⟩
  simp [State.NoReset]

theorem witness_GeneratorAndEngineStepsCommute :
    (waiting ⟨0x02000000#32, 0#32⟩).Inv ∧ (waiting ⟨0x02000000#32, 0#32⟩).genActive = true ∧
    (waiting ⟨0x02000000#32, 0#32⟩).head = some ⟨0x02000000#32, 0#32⟩ ∧
    (generatorStep (waiting ⟨0x02000000#32, 0#32⟩)).holdsCommand ⟨0x02000000#32, 0#32⟩ =
      (waiting ⟨0x02000000#32, 0#32⟩).holdsCommand ⟨0x02000000#32, 0#32⟩ :=
  ⟨generate_inv _ [], rfl, rfl, by decide⟩

/-- Two blocks right after reset whose tables differ in every entry. -/
theorem witness_UnbuiltEntriesAreUnobservable :
    SameBuilt { State.reset with table := Vector.replicate 256 0#32 }
      { State.reset with table := Vector.replicate 256 1#32 } := by
  refine ⟨rfl, fun i h => ?_⟩
  rcases h with h | h
  · cases h
  · exact absurd h (Nat.not_lt_zero _)

theorem witness_RegisterWriters :
    let s : State := { ready 5#32 with head := some ⟨0x02000000#32, 0#32⟩ }
    step s = .next (ready 0xFFFFFFFF#32) ∧ s.nextMove.1 ≠ .reset ∧ (ready 0xFFFFFFFF#32).r ≠ s.r ∧
    field State.dout (step { ready 5#32 with head := some ⟨0x06000000#32, 0#32⟩ }) = some 5#32 :=
  ⟨rfl, by decide, by decide, by decide⟩

theorem witness_ParameterNeverChanges :
    (step (ready 0#32) = .next (ready 0#32) ∧ (ready 0#32).nextMove.1 ≠ .reset) ∧
    (step ((ready 0#32).withScript [.reset]) = .next (State.resetOf .rom 1) ∧
      ((ready 0#32).withScript [.reset]).nextMove.1 = .reset) := ⟨⟨rfl, by decide⟩, rfl, by decide⟩

theorem witness_IdleStatePersists :
    (ready 0#32).head = none ∧ (ready 0#32).script = [] ∧ (ready 0#32).genActive = false := by decide

end Sys2Proof.Tests
end

section
/-! SUPPORT. The error record, ERR with ECAUSE: which moves write it, and what a command does beside it. -/

namespace Sys2Proof.Machine

/-! ### Who writes the error record -/

/-- The engine's turn either leaves the error record or records the head's illegal command (rule R161). -/
theorem afterEngine_errorRecord (s : State) :
    (s.afterEngine.err = s.err ∧ s.afterEngine.ecause = s.ecause) ∨
    ∃ c cause, s.head = some c ∧ decode c = .illegal cause ∧
      s.afterEngine = (s.recordError cause).accept := by
  unfold State.afterEngine
  cases hh : s.head with
  | none => exact .inl ⟨rfl, rfl⟩
  | some c =>
    simp only
    cases hd : decode c with
    | illegal cause => exact .inr ⟨c, cause, rfl, hd, rfl⟩
    | command i =>
      obtain ⟨_, _, _, herr, hecause, _⟩ := effect_frame s i
      left; simp only
      split
      · exact ⟨rfl, rfl⟩
      · exact ⟨herr, hecause⟩

/-- The engine executes an illegal head by recording its cause and consuming it. -/
theorem afterEngine_illegal {s : State} {c : Command} {cause : Cause} (hh : s.head = some c)
    (hd : decode c = .illegal cause) : s.afterEngine = (s.recordError cause).accept := by
  simp only [State.afterEngine, hh, hd]

/-- Of the moves other than reset, only the engine executing an illegal head writes the error record. -/
theorem afterMove_errorRecord (s : State) {m : Event} (hm : m ≠ .reset) :
    ((s.afterMove m).err = s.err ∧ (s.afterMove m).ecause = s.ecause) ∨
    (m = .engine ∧ ∃ c cause, s.head = some c ∧ decode c = .illegal cause ∧
      s.afterMove m = (s.recordError cause).accept) := by
  cases m with
  | reset => exact absurd rfl hm
  | present c => exact .inl ⟨rfl, rfl⟩
  | idle => exact .inl ⟨rfl, rfl⟩
  | engine => exact (afterEngine_errorRecord s).imp_right fun h => ⟨rfl, h⟩
  | generator =>
    have hobs : (generatorStep s).observed = s.observed := (generatorStep_frame s).1
    exact .inl ⟨congrArg Observed.err hobs, congrArg Observed.ecause hobs⟩

/-- Everything a step without reset can do to the error record. -/
theorem step_errorRecord {s t : State} (h : step s = .next t) (hm : s.nextMove.1 ≠ .reset) :
    (t.err = s.err ∧ t.ecause = s.ecause) ∨
    (s.nextMove.1 = .engine ∧ ∃ c cause, s.head = some c ∧ decode c = .illegal cause ∧
      t.err = true ∧ t.ecause = if s.err then s.ecause else causeCode cause) := by
  obtain rfl := (step_next_iff s t).mp h
  rcases afterMove_errorRecord (s.withScript s.nextMove.2) hm with
    keep | ⟨hmove, c, cause, hh, hd, e⟩
  · exact .inl keep
  · rw [e]
    exact .inr ⟨hmove, c, cause, hh, hd,
      State.recordError_err _ cause, State.recordError_ecause _ cause⟩

/-! ### Commands beside the error record -/

/-- An instruction's effect neither reads nor writes the error record. -/
theorem effect_errorRecord_indep (s : State) (i : Instr) (b : Bool) (e : BitVec 4) :
    State.effect { s with err := b, ecause := e } i = { s.effect i with err := b, ecause := e } := by
  cases i with
  | tgen =>
    simp only [State.effect]
    split <;> rfl
  | _ => rfl

/-- The hold rule does not read the error record. -/
theorem holds_errorRecord_indep (s : State) (i : Instr) (b : Bool) (e : BitVec 4) :
    State.holds { s with err := b, ecause := e } i = s.holds i := by
  cases i <;> rfl

/-- An instruction executes alike whatever the error record holds, and keeps it (rule R32). -/
theorem exec_errorRecord_indep {i : Instr} {s t : State} (b : Bool) (e : BitVec 4)
    (h : exec i s = .next t) :
    exec i { s with err := b, ecause := e } = .next { t with err := b, ecause := e } := by
  rw [exec_eq] at h ⊢
  injection h with h
  subst h
  rw [holds_errorRecord_indep, effect_errorRecord_indep]
  split <;> rfl

/-! ### The codes -/

/-- Under the invariant ECAUSE is "none" or one of the two produced codes (rule R33). -/
theorem State.Inv.ecause_cases {s : State} (h : s.Inv) :
    s.ecause = 0#4 ∨ s.ecause = 1#4 ∨ s.ecause = 2#4 := by
  have hle := h.ecause_le
  bv_omega

/-! ### The obligation -/

/-- Settles O36, from what a step can do to the error record. -/
theorem errorRecordIsStickyAndFirst : Obligations.ErrorRecordIsStickyAndFirst := by
  unfold Obligations.ErrorRecordIsStickyAndFirst
  refine ⟨?sticky, ?onlyIllegal, ?everyIllegal, ?cleared, ?unaffected, ?codes⟩
  case sticky =>
    intro s t h hm herr
    rcases step_errorRecord h hm with ⟨kerr, kcause⟩ | ⟨_, _, _, _, _, terr, tcause⟩
    · exact ⟨kerr.trans herr, kcause⟩
    · exact ⟨terr, by rw [tcause, herr]; rfl⟩
  case onlyIllegal =>
    intro s t h hm herr
    rcases step_errorRecord h hm with ⟨kerr, kcause⟩ | ⟨hmove, c, cause, hh, hd, terr, tcause⟩
    · exact .inl ⟨kerr.trans herr, kcause⟩
    · exact .inr ⟨hmove, c, cause, hh, hd, terr, by rw [tcause, herr]; cases cause <;> rfl⟩
  case everyIllegal =>
    intro s c cause hmove hh hd
    refine ⟨_, step_eq s, ?_⟩
    have hrec := afterEngine_illegal (s := s.withScript s.nextMove.2) hh hd
    simp [hmove, State.afterMove, hrec]
  case cleared =>
    intro s t h hmove
    obtain rfl := (step_next_iff s t).mp h
    simp [hmove, State.afterMove]
  case unaffected =>
    intro i s t e h
    exact exec_errorRecord_indep true e h
  case codes =>
    intro s hs
    exact hs.ecause_cases

end Sys2Proof.Machine
end

section
/-! SUPPORT. DIN, the data word: which commands read it, and which of its lanes (rule R45). -/

namespace Sys2Proof.Machine

/-! ### The decoder -/

/-- The decoder's OP field, named as the shifted command word names it. -/
theorem opField_toNat (cmd : Word) : (opField cmd).toNat = (cmd >>> 24).toNat := by
  rw [opField, ← BitVec.setWidth_ushiftRight_eq_extractLsb]
  bv_omega

/-- The decoder's CNT field, named as the low two bits of the command word. -/
theorem cntField_eq_setWidth (cmd : Word) : cntField cmd = cmd.setWidth 2 :=
  (BitVec.setWidth_eq_extractLsb' (by decide)).symm

/-- Outside LOAD and UPDW the decoder does not read DIN. -/
theorem decode_din_indep {cmd : Word} (d d' : Word) (hload : cmd >>> 24 ≠ 3#32)
    (hupdw : cmd >>> 24 ≠ 5#32) : decode ⟨cmd, d⟩ = decode ⟨cmd, d'⟩ := by
  have h3 : (opField cmd).toNat ≠ 3 := by rw [opField_toNat]; bv_omega
  have h5 : (opField cmd).toNat ≠ 5 := by rw [opField_toNat]; bv_omega
  simp only [decode]
  split
  case h_4 hop => exact absurd hop h3
  case h_6 hop => exact absurd hop h5
  all_goals rfl

/-- Under OP 3 the decoder passes DIN to LOAD, where the word is legal. -/
theorem decode_eq_decodeN_load {cmd : Word} (d : Word) (hop : cmd >>> 24 = 3#32) :
    decode ⟨cmd, d⟩ = decodeN cmd (.load d) := by
  simp only [decode, opField_toNat, hop]
  rfl

/-- Under OP 5 the decoder passes DIN to UPDW, where the word is legal. -/
theorem decode_eq_decodeW_updw {cmd : Word} (d : Word) (hop : cmd >>> 24 = 5#32) :
    decode ⟨cmd, d⟩ = decodeW cmd (.updw · d) := by
  simp only [decode, opField_toNat, hop]
  rfl

/-! ### The lanes -/

/-- UPDW consumes the lanes 0 to CNT of DIN and no other. -/
theorem laneBytes_congr {cnt : BitVec 2} {d d' : Word}
    (h : ∀ j, j ≤ cnt.toNat → lane d j = lane d' j) : laneBytes cnt d = laneBytes cnt d' :=
  List.map_congr_left fun j hj => h j (Nat.le_of_lt_succ (List.mem_range.mp hj))

/-- UPDW executes alike on data words that agree in the lanes it consumes. -/
theorem exec_updw_congr {cnt : BitVec 2} {d d' : Word} (s : State)
    (h : ∀ j, j ≤ cnt.toNat → lane d j = lane d' j) : exec (.updw cnt d) s = exec (.updw cnt d') s := by
  simp only [exec, execUpdw, laneBytes_congr h]

/-! ### The engine -/

/-- The engine reads a command only through what it decodes to. -/
theorem execCommand_congr_decode {c c' : Command} (s : State) (h : decode c = decode c') :
    execCommand c s = execCommand c' s := by
  simp only [execCommand, h]

/-- A word of OP 5, legal or not, acts alike on data words that agree in the lanes 0 to CNT. -/
theorem execCommand_updw_congr {cmd d d' : Word} (s : State) (hop : cmd >>> 24 = 5#32)
    (h : ∀ j, j ≤ (cntField cmd).toNat → lane d j = lane d' j) :
    execCommand ⟨cmd, d⟩ s = execCommand ⟨cmd, d'⟩ s := by
  simp only [execCommand, decode_eq_decodeW_updw _ hop, decodeW]
  by_cases hzero : zero22Field cmd = 0
  · simp only [if_pos hzero]
    exact exec_updw_congr s h
  · simp only [if_neg hzero]

/-! ### The obligation -/

/-- Settles O6, from the decoder's use of DIN and the lanes an UPDW consumes. -/
theorem ignoredDinBitsChangeNothing : Obligations.IgnoredDinBitsChangeNothing := by
  unfold Obligations.IgnoredDinBitsChangeNothing
  intro s cmd d d'
  refine ⟨?otherCommands, ?updw, ?load⟩
  case otherCommands =>
    intro hload hupdw
    exact execCommand_congr_decode s (decode_din_indep d d' hload hupdw)
  case updw =>
    intro hop hlanes
    exact execCommand_updw_congr s hop (cntField_eq_setWidth cmd ▸ hlanes)
  case load =>
    have hdecode : decode ⟨0x03000000#32, d⟩ = .command (.load d) :=
      (decode_eq_decodeN_load d (by decide)).trans (if_pos (by decide))
    rw [execCommand_eq, hdecode]
    rfl

end Sys2Proof.Machine
end

section
/-! SUPPORT. The decoder's field checks, in terms of the masked and shifted command word (rule R64). -/

namespace Sys2Proof.Machine

/-! ### The fields as masks -/

/-- A field of a word is zero exactly when the word has no bit under the field's mask. -/
theorem extractLsb'_eq_zero_iff_and_mask (w : Word) {start len : Nat} (hfit : start + len ≤ 32) :
    w.extractLsb' start len = 0#len ↔ w &&& ((BitVec.allOnes len).setWidth 32 <<< start) = 0#32 := by
  constructor
  case mp =>
    intro h
    ext i hi
    by_cases hin : start ≤ i ∧ i < start + len
    · have hbit : (w.extractLsb' start len).getLsbD (i - start) = false := by simp [h]
      have hk : i - start < len := by omega
      have hw : w[i] = false := by simpa [hk, hin.1, hi] using hbit
      simp [hw]
    · simp only [BitVec.getElem_and, BitVec.getElem_shiftLeft, BitVec.getElem_setWidth,
        BitVec.getLsbD_allOnes, BitVec.getElem_zero, Bool.and_eq_false_imp, Bool.not_eq_eq_eq_not,
        Bool.not_true, decide_eq_false_iff_not, not_lt]
      omega
  case mpr =>
    intro h
    ext i hi
    have hfits : start + i < 32 := by omega
    have hbit : (w &&& ((BitVec.allOnes len).setWidth 32 <<< start)).getLsbD (start + i) = false := by
      simp [h]
    simpa [hi, hfits, BitVec.getLsbD_eq_getElem] using hbit

/-- ZERO24 as a mask, the reserved bits of format N. -/
theorem zero24Field_eq_zero_iff (cmd : Word) : zero24Field cmd = 0 ↔ cmd &&& 0x00FFFFFF#32 = 0#32 :=
  extractLsb'_eq_zero_iff_and_mask cmd (by decide)

/-- ZERO16 as a mask, the reserved bits of format B. -/
theorem zero16Field_eq_zero_iff (cmd : Word) : zero16Field cmd = 0 ↔ cmd &&& 0x00FFFF00#32 = 0#32 :=
  extractLsb'_eq_zero_iff_and_mask cmd (by decide)

/-- ZERO22 as a mask, the reserved bits of format W. -/
theorem zero22Field_eq_zero_iff (cmd : Word) : zero22Field cmd = 0 ↔ cmd &&& 0x00FFFFFC#32 = 0#32 :=
  extractLsb'_eq_zero_iff_and_mask cmd (by decide)

/-- The decoder's IMM8 field, named as the low byte of the command word. -/
theorem imm8Field_eq_setWidth (cmd : Word) : imm8Field cmd = cmd.setWidth 8 :=
  (BitVec.setWidth_eq_extractLsb' (by decide)).symm

/-! ### The formats -/

theorem decodeN_legal {cmd : Word} (i : Instr) (hz : cmd &&& 0x00FFFFFF#32 = 0#32) :
    decodeN cmd i = .command i :=
  if_pos ((zero24Field_eq_zero_iff cmd).mpr hz)

theorem decodeN_reserved {cmd : Word} (i : Instr) (hz : cmd &&& 0x00FFFFFF#32 ≠ 0#32) :
    decodeN cmd i = .illegal .reservedField :=
  if_neg (mt (zero24Field_eq_zero_iff cmd).mp hz)

theorem decodeB_legal {cmd : Word} (mk : Byte → Instr) (hz : cmd &&& 0x00FFFF00#32 = 0#32) :
    decodeB cmd mk = .command (mk (cmd.setWidth 8)) := by
  rw [← imm8Field_eq_setWidth]
  exact if_pos ((zero16Field_eq_zero_iff cmd).mpr hz)

theorem decodeB_reserved {cmd : Word} (mk : Byte → Instr) (hz : cmd &&& 0x00FFFF00#32 ≠ 0#32) :
    decodeB cmd mk = .illegal .reservedField :=
  if_neg (mt (zero16Field_eq_zero_iff cmd).mp hz)

theorem decodeW_legal {cmd : Word} (mk : BitVec 2 → Instr) (hz : cmd &&& 0x00FFFFFC#32 = 0#32) :
    decodeW cmd mk = .command (mk (cmd.setWidth 2)) := by
  rw [← cntField_eq_setWidth]
  exact if_pos ((zero22Field_eq_zero_iff cmd).mpr hz)

theorem decodeW_reserved {cmd : Word} (mk : BitVec 2 → Instr) (hz : cmd &&& 0x00FFFFFC#32 ≠ 0#32) :
    decodeW cmd mk = .illegal .reservedField :=
  if_neg (mt (zero22Field_eq_zero_iff cmd).mp hz)

/-! ### The opcodes -/

section Opcodes

variable {c : Command}

theorem decode_illegalOpcode (hop : c.cmd >>> 24 > 8#32) : decode c = .illegal .illegalOpcode := by
  have hbig : 8 < (opField c.cmd).toNat := by rw [opField_toNat]; bv_omega
  unfold decode
  split
  case h_10 => rfl
  all_goals omega

theorem decode_eq_decodeN_nop (hop : c.cmd >>> 24 = 0#32) : decode c = decodeN c.cmd .nop := by
  rw [decode, opField_toNat, hop]; rfl

theorem decode_eq_decodeN_tgen (hop : c.cmd >>> 24 = 1#32) : decode c = decodeN c.cmd .tgen := by
  rw [decode, opField_toNat, hop]; rfl

theorem decode_eq_decodeN_init (hop : c.cmd >>> 24 = 2#32) : decode c = decodeN c.cmd .init := by
  rw [decode, opField_toNat, hop]; rfl

theorem decode_eq_decodeB_upd (hop : c.cmd >>> 24 = 4#32) : decode c = decodeB c.cmd .upd := by
  rw [decode, opField_toNat, hop]; rfl

theorem decode_eq_decodeN_rdraw (hop : c.cmd >>> 24 = 6#32) : decode c = decodeN c.cmd .rdraw := by
  rw [decode, opField_toNat, hop]; rfl

theorem decode_eq_decodeN_rdfin (hop : c.cmd >>> 24 = 7#32) : decode c = decodeN c.cmd .rdfin := by
  rw [decode, opField_toNat, hop]; rfl

theorem decode_eq_decodeB_rdtab (hop : c.cmd >>> 24 = 8#32) : decode c = decodeB c.cmd .rdtab := by
  rw [decode, opField_toNat, hop]; rfl

/-- The opcodes of format N in the opcode table. -/
theorem decode_eq_decodeN_of_op (hop : c.cmd >>> 24 = 0#32 ∨ c.cmd >>> 24 = 1#32 ∨ c.cmd >>> 24 = 2#32 ∨
    c.cmd >>> 24 = 3#32 ∨ c.cmd >>> 24 = 6#32 ∨ c.cmd >>> 24 = 7#32) : ∃ i, decode c = decodeN c.cmd i := by
  rcases hop with hop | hop | hop | hop | hop | hop
  · exact ⟨_, decode_eq_decodeN_nop hop⟩
  · exact ⟨_, decode_eq_decodeN_tgen hop⟩
  · exact ⟨_, decode_eq_decodeN_init hop⟩
  · exact ⟨_, decode_eq_decodeN_load c.din hop⟩
  · exact ⟨_, decode_eq_decodeN_rdraw hop⟩
  · exact ⟨_, decode_eq_decodeN_rdfin hop⟩

/-- The opcodes of format B in the opcode table. -/
theorem decode_eq_decodeB_of_op (hop : c.cmd >>> 24 = 4#32 ∨ c.cmd >>> 24 = 8#32) :
    ∃ mk, decode c = decodeB c.cmd mk := by
  rcases hop with hop | hop
  · exact ⟨_, decode_eq_decodeB_upd hop⟩
  · exact ⟨_, decode_eq_decodeB_rdtab hop⟩

end Opcodes

/-! ### The obligation -/

/-- Settles O2: the opcode names the format, and the format's mask decides between the command and the
reserved field. -/
theorem decodeFollowsFieldChecks : Obligations.DecodeFollowsFieldChecks := by
  unfold Obligations.DecodeFollowsFieldChecks
  intro c
  refine ⟨?illegalOpcode, ?reservedB, ?reservedW, ?reservedN, ?nop, ?tgen, ?init, ?load, ?upd, ?updw,
    ?rdraw, ?rdfin, ?rdtab⟩
  case illegalOpcode => exact decode_illegalOpcode
  case reservedB =>
    intro hop hz
    obtain ⟨mk, hdecode⟩ := decode_eq_decodeB_of_op hop
    exact hdecode.trans (decodeB_reserved mk hz)
  case reservedW =>
    intro hop hz
    exact (decode_eq_decodeW_updw c.din hop).trans (decodeW_reserved _ hz)
  case reservedN =>
    intro hop hz
    obtain ⟨i, hdecode⟩ := decode_eq_decodeN_of_op hop
    exact hdecode.trans (decodeN_reserved i hz)
  case nop => exact fun hop hz => (decode_eq_decodeN_nop hop).trans (decodeN_legal _ hz)
  case tgen => exact fun hop hz => (decode_eq_decodeN_tgen hop).trans (decodeN_legal _ hz)
  case init => exact fun hop hz => (decode_eq_decodeN_init hop).trans (decodeN_legal _ hz)
  case load => exact fun hop hz => (decode_eq_decodeN_load c.din hop).trans (decodeN_legal _ hz)
  case upd => exact fun hop hz => (decode_eq_decodeB_upd hop).trans (decodeB_legal _ hz)
  case updw => exact fun hop hz => (decode_eq_decodeW_updw c.din hop).trans (decodeW_legal _ hz)
  case rdraw => exact fun hop hz => (decode_eq_decodeN_rdraw hop).trans (decodeN_legal _ hz)
  case rdfin => exact fun hop hz => (decode_eq_decodeN_rdfin hop).trans (decodeN_legal _ hz)
  case rdtab => exact fun hop hz => (decode_eq_decodeB_rdtab hop).trans (decodeB_legal _ hz)

end Sys2Proof.Machine
end

section
/-! SUPPORT. A generation from its start to its end, which it reaches with the whole table (rule R84). -/

namespace Sys2Proof.Machine

/-! ### The generator step -/

/-- Without a generation the generator has no step (rule R84). -/
theorem generatorStep_idle {s : State} (ha : s.genActive = false) : generatorStep s = s := by
  simp [generatorStep, ha]

/-- Where a generation leaves the block does not depend on how far it has come. -/
theorem generatorStep_afterGeneration (s : State) :
    (generatorStep s).afterGeneration = s.afterGeneration := by
  rcases generatorStep_cases s with ⟨_, e⟩ | ⟨_, _, e⟩ | ⟨_, _, _, e⟩ | ⟨_, _, _, e⟩ <;> rw [e] <;> rfl

/-- The part of the invariant that describes a generation in progress (rules R81 and R84). -/
structure State.Generating (s : State) : Prop where
  active : s.genActive = true
  gk_le : s.gk.toNat ≤ 8
  gw_eq : s.gw = genSteps s.gk.toNat (s.gi.setWidth 32)
  built : s.TableBuilt

theorem startGeneration_generating (s : State) : s.startGeneration.Generating where
  active := rfl
  gk_le := Nat.zero_le 8
  gw_eq := rfl
  built := fun i hi => absurd hi (Nat.not_lt_zero i.toNat)

/-- After 8 bit-iterations the working value is the entry being built. -/
theorem State.Generating.gw_eq_tableEntry {s : State} (h : s.Generating) (hk : 8 ≤ s.gk.toNat) :
    s.gw = tableEntry s.gi := by
  rw [h.gw_eq, Nat.le_antisymm h.gk_le hk]; rfl

/-- Writing the finished entry GI leaves every entry up to GI built. -/
theorem State.Generating.readTable_write {s : State} (h : s.Generating) (hk : 8 ≤ s.gk.toNat) {i : Byte}
    (hi : i.toNat ≤ s.gi.toNat) : (s.writeTable s.gi s.gw).readTable i = tableEntry i := by
  rw [readTable_writeTable]
  split
  case isTrue heq => rw [h.gw_eq_tableEntry hk, heq]
  case isFalse hne =>
    have hlt : i.toNat ≠ s.gi.toNat := fun h' => hne (BitVec.eq_of_toNat_eq h')
    exact h.built i (by omega)

/-- The step that writes the last entry leaves the block where a generation ends. -/
theorem State.Generating.step_last {s : State} (h : s.Generating) (hk : 8 ≤ s.gk.toNat)
    (hi : s.gi = 255#8) : generatorStep s = s.afterGeneration := by
  have htable : (s.writeTable s.gi s.gw).table = crcTable :=
    table_eq_of_tableReady fun i => h.readTable_write hk (by rw [hi]; exact Nat.le_of_lt_succ i.isLt)
  have hgk : s.gk = 8#4 := BitVec.eq_of_toNat_eq (Nat.le_antisymm h.gk_le hk)
  have hgw : s.gw = tableEntry 255#8 := hi ▸ h.gw_eq_tableEntry hk
  rcases generatorStep_cases s with ⟨ha, _⟩ | ⟨_, hlt, _⟩ | ⟨_, _, _, e⟩ | ⟨_, _, hne, _⟩
  · simp [h.active] at ha
  · omega
  · rw [e, State.afterGeneration, ← htable, ← hgw, ← hi, ← hgk]; rfl
  · exact absurd hi hne

/-- A step before the last keeps the generation in progress. -/
theorem State.Generating.step_generating {s : State} (h : s.Generating)
    (ha : (generatorStep s).genActive = true) : (generatorStep s).Generating := by
  rcases generatorStep_cases s with ⟨hidle, _⟩ | ⟨_, hk, e⟩ | ⟨_, _, _, e⟩ | ⟨_, hk, hi, e⟩
  · simp [h.active] at hidle
  · rw [e]
    exact { active := h.active
            gk_le := by rw [gk_succ hk]; omega
            gw_eq := by simp only [gk_succ hk, genSteps_succ, h.gw_eq]
            built := h.built }
  · simp [e] at ha
  · rw [e]
    exact { active := h.active
            gk_le := Nat.zero_le 8
            gw_eq := rfl
            built := fun i hlt => h.readTable_write hk (by simp only [gi_succ hi] at hlt; omega) }

/-! ### The whole generation -/

/-- A generation one step from its end is about to write the last entry. -/
theorem last_of_stepsToGo {s : State} (h : s.stepsToGo = 1) :
    8 ≤ s.gk.toNat ∧ s.gi = 255#8 := by
  have hgi := s.gi.isLt
  simp only [State.stepsToGo] at h
  exact ⟨by omega, BitVec.eq_of_toNat_eq (by simp; omega)⟩

/-- After the steps it needs, a generation has left the whole table (rule R84). -/
theorem State.Generating.steps_complete {s : State} (h : s.Generating) :
    generatorSteps s.stepsToGo s = s.afterGeneration := by
  induction hn : s.stepsToGo generalizing s with
  | zero => simp [State.stepsToGo] at hn
  | succ n ih =>
    rw [generatorSteps]
    rcases generatorStep_progress h.active h.gk_le with ⟨hone, _⟩ | ⟨ha, _, _, hgo⟩
    · obtain rfl : n = 0 := by omega
      obtain ⟨hk, hi⟩ := last_of_stepsToGo hone
      exact h.step_last hk hi
    · rw [ih (h.step_generating ha) (by omega), generatorStep_afterGeneration]

theorem startGeneration_stepsToGo (s : State) : s.startGeneration.stepsToGo = 2304 := by
  simp [State.stepsToGo]

theorem startGeneration_steps_active (s : State) {k : Nat} (hk : k < 2304) :
    (generatorSteps k s.startGeneration).genActive = true ∧
      (generatorSteps k s.startGeneration).tvalid = false :=
  generatorSteps_active k s.startGeneration rfl (Nat.zero_le 8) (startGeneration_stepsToGo s ▸ hk)

theorem startGeneration_steps_complete (s : State) :
    generatorSteps 2304 s.startGeneration = s.afterGeneration :=
  startGeneration_stepsToGo s ▸ (startGeneration_generating s).steps_complete

/-! ### The obligation -/

/-- Settles O20: the cases of the generator step, then the generation as 2304 of them. -/
theorem generationTakes2304Steps : Obligations.GenerationTakes2304Steps := by
  unfold Obligations.GenerationTakes2304Steps
  refine ⟨?idle, ?iterate, ?last, ?nextEntry, fun s => ⟨?active, ?complete, ?ready⟩⟩
  case idle => exact fun s ha => generatorStep_idle ha
  case iterate =>
    intro s ha hk
    have hlt : s.gk < 8#4 := BitVec.lt_def.mpr hk
    simp [generatorStep, ha, hlt]
  case last =>
    intro s ha hk hi
    simp [generatorStep, ha, hk, hi, State.writeTable]
  case nextEntry =>
    intro s ha hk hi
    simp [generatorStep, ha, hk, hi, State.writeTable]
  case active => exact fun k hk => startGeneration_steps_active s hk
  case complete => exact startGeneration_steps_complete s
  case ready =>
    rw [startGeneration_steps_complete]
    exact tableReady_of_table_eq rfl

end Sys2Proof.Machine
end

section
/-! SUPPORT. TGEN, the command that starts a generation (rule R86). -/

namespace Sys2Proof.Machine

/-- A word the decoder rejects for its ZERO field is consumed, and the first error recorded. -/
theorem execCommand_reservedField {c : Command} (s : State) (h : decode c = .illegal .reservedField) :
    execCommand c s =
      .next { s with head := none, err := true, ecause := if s.err then s.ecause else 2#4 } := by
  rw [execCommand_eq, h]
  cases herr : s.err <;> simp [State.recordError, State.accept, causeCode, herr]

/-- An opcode whose words the decoder rejects under a reserved bit rejects its reserved words. -/
theorem rejectsReserved_of_decode {op zero : Word}
    (h : ∀ c : Command, c.cmd >>> 24 = op → c.cmd &&& zero ≠ 0#32 → decode c = .illegal .reservedField) :
    RejectsReserved op zero :=
  fun c s hop hz => ⟨h c hop hz, execCommand_reservedField s (h c hop hz)⟩

/-- Starting a generation does not read the head. -/
theorem startGeneration_accept (s : State) : s.startGeneration.accept = s.accept.startGeneration := rfl

/-- Outside a generation, in GENERATE mode, TGEN starts one. -/
theorem exec_tgen_generate {s : State} (ha : s.genActive = false) (hinit : s.tableInit = .generate) :
    exec .tgen s = .next s.accept.startGeneration := by
  simp [exec_eq, State.holds, State.effect, ha, hinit, startGeneration_accept]

/-! ### The obligation -/

/-- Settles O9: the generation TGEN starts ends with TABLE, which a ready table already was. -/
theorem tgenRebuildsTheTable : Obligations.TgenRebuildsTheTable := by
  unfold Obligations.TgenRebuildsTheTable
  refine ⟨?decodes, ?reserved, ?held, ?generate, ?rom, ?rebuilds⟩
  case decodes => exact fun d => (decode_eq_decodeN_tgen (by simp)).trans (decodeN_legal _ (by simp))
  case reserved =>
    exact rejectsReserved_of_decode fun c hop hz =>
      (decode_eq_decodeN_tgen hop).trans (decodeN_reserved _ hz)
  case held => exact fun s ha => by simp [exec_eq, State.holds, ha]
  case generate => exact fun s ha hinit => exec_tgen_generate ha hinit
  case rom =>
    intro s ha hinit
    simp [exec_eq, State.holds, State.effect, State.accept, ha, hinit]
  case rebuilds =>
    intro s ha hinit hready
    refine ⟨_, exec_tgen_generate ha hinit, fun k hk => (startGeneration_steps_active _ hk).2, ?_⟩
    rw [startGeneration_steps_complete]
    exact ⟨rfl, (table_eq_of_tableReady hready).symm, rfl, rfl⟩

end Sys2Proof.Machine
end

section
/-! SUPPORT. The values of the table, and its linearity over XOR (rule R87). -/

namespace Sys2Proof.Machine

/-- GENSTEP as a shift combined with a multiple of POLY by the low bit. -/
theorem genStep_eq (w : Word) :
    genStep w = (w >>> 1) ^^^ (if w.getLsbD 0 then Config.poly else 0#32) := by
  unfold genStep
  split <;> simp

theorem genStep_xor (x y : Word) : genStep (x ^^^ y) = genStep x ^^^ genStep y := by
  have hpoly : ∀ a b : Bool, (if a ^^ b then Config.poly else 0#32) =
      (if a then Config.poly else 0#32) ^^^ (if b then Config.poly else 0#32) := by decide
  simp only [genStep_eq, BitVec.ushiftRight_xor_distrib, BitVec.getLsbD_xor, hpoly]
  ac_rfl

theorem genSteps_xor (n : Nat) (x y : Word) : genSteps n (x ^^^ y) = genSteps n x ^^^ genSteps n y := by
  induction n with
  | zero => rfl
  | succ n ih => simp only [genSteps_succ, ih, genStep_xor]

theorem tableEntry_xor (a b : Byte) : tableEntry (a ^^^ b) = tableEntry a ^^^ tableEntry b := by
  simp only [tableEntry, BitVec.setWidth_xor, genSteps_xor]

/-! ### The obligation -/

/-- Settles O19: linearity of one GENSTEP carries over to eight of them. -/
theorem tableValuesAndLinearity : Obligations.TableValuesAndLinearity := by
  unfold Obligations.TableValuesAndLinearity
  refine ⟨?sizeOfT, ?sizeOfTable, ?entries, ?stepZero, ?zero, ?x80, ?x01, ?xFF, genStep_xor,
    tableEntry_xor⟩
  case sizeOfT => exact fun s => s.table.length_toList
  case sizeOfTable => exact crcTable.length_toList
  case entries => exact crcTable_get_byte
  all_goals decide

end Sys2Proof.Machine
end

section
/-! SUPPORT. Who starts a generation (rule R83), and the constant table of ROM mode (rule R85). -/

namespace Sys2Proof.Machine

/-! ### Who sets GEN_ACTIVE -/

/-- Of the instructions only TGEN in GENERATE mode writes GEN_ACTIVE. -/
theorem effect_genActive (s : State) (i : Instr) :
    (s.effect i).genActive = s.genActive ∨ (i = .tgen ∧ s.tableInit = .generate) := by
  cases i with
  | tgen => cases h : s.tableInit <;> simp [State.effect, h]
  | _ => exact .inl rfl

/-- The engine's turn leaves GEN_ACTIVE, or the head is TGEN in GENERATE mode. -/
theorem afterEngine_genActive (s : State) :
    s.afterEngine.genActive = s.genActive ∨
    (s.tableInit = .generate ∧ ∃ c, s.head = some c ∧ decode c = .command .tgen) := by
  unfold State.afterEngine
  cases hh : s.head with
  | none => exact .inl rfl
  | some c =>
    simp only
    cases hd : decode c with
    | illegal cause => exact .inl (by simp)
    | command i =>
      simp only
      split
      · exact .inl rfl
      · rcases effect_genActive s i with keep | ⟨rfl, hinit⟩
        · exact .inl keep
        · exact .inr ⟨hinit, c, rfl, hd⟩

/-- An accepted TGEN in GENERATE mode leaves the start of a generation. -/
theorem afterEngine_tgen {s : State} {c : Command} (hinit : s.tableInit = .generate)
    (ha : s.genActive = false) (hh : s.head = some c) (hd : decode c = .command .tgen) :
    s.afterEngine = s.startGeneration.accept := by
  simp [State.afterEngine, hh, hd, State.holds, ha, State.effect, hinit]

/-- The moves that can set GEN_ACTIVE (rule R83). -/
theorem afterMove_starts {s : State} {m : Event} (ha : s.genActive = false)
    (h : (s.afterMove m).genActive = true) :
    s.tableInit = .generate ∧
      (m = .reset ∨ (m = .engine ∧ ∃ c, s.head = some c ∧ decode c = .command .tgen)) := by
  cases m with
  | reset => exact ⟨by simpa [State.afterMove] using h, .inl rfl⟩
  | engine =>
    rcases afterEngine_genActive s with keep | ⟨hinit, htgen⟩
    · simp [State.afterMove, keep, ha] at h
    · exact ⟨hinit, .inr ⟨rfl, htgen⟩⟩
  | generator => simp [State.afterMove, generatorStep_idle ha, ha] at h
  | present c => simp [State.afterMove, ha] at h
  | idle => simp [State.afterMove, ha] at h

/-! ### What leaves the table -/

/-- The engine writes neither the table nor the parameter (rules R9 and R36). -/
theorem afterEngine_table (s : State) :
    s.afterEngine.table = s.table ∧ s.afterEngine.tableInit = s.tableInit := by
  unfold State.afterEngine
  cases s.head with
  | none => exact ⟨rfl, rfl⟩
  | some c =>
    simp only
    cases decode c with
    | illegal cause => simp
    | command i =>
      obtain ⟨_, _, htable, _, _, hinit, _⟩ := effect_frame s i
      simp only
      split
      · exact ⟨rfl, rfl⟩
      · exact ⟨htable, hinit⟩

/-- A ROM table is kept by every move, a reset giving it anew (rule R85). -/
theorem afterMove_rom {s : State} (hinit : s.tableInit = .rom) (ha : s.genActive = false)
    (htable : s.table = crcTable) (m : Event) :
    (s.afterMove m).table = crcTable ∧ (s.afterMove m).tableInit = .rom := by
  cases m with
  | reset => simp [State.afterMove, hinit, tableOnReset]
  | engine =>
    obtain ⟨ktable, kinit⟩ := afterEngine_table s
    exact ⟨ktable.trans htable, kinit.trans hinit⟩
  | generator => simp [State.afterMove, generatorStep_idle ha, htable, hinit]
  | present c => exact ⟨htable, hinit⟩
  | idle => exact ⟨htable, hinit⟩

/-! ### The obligations -/

/-- Settles O21: the moves that set GEN_ACTIVE are the reset and the accepted TGEN. -/
theorem onlyResetAndTgenStartGenerations : Obligations.OnlyResetAndTgenStartGenerations := by
  unfold Obligations.OnlyResetAndTgenStartGenerations
  refine ⟨?reset, ?tgen, ?nothingElse⟩
  case reset =>
    intro s hinit hmove
    refine ⟨_, step_eq s, ?_⟩
    simp [hmove, State.afterMove, hinit]
  case tgen =>
    intro s c hinit ha hmove hh hd
    refine ⟨_, step_eq s, ?_⟩
    have hstart := afterEngine_tgen (s := s.withScript s.nextMove.2) hinit ha hh hd
    simp [hmove, State.afterMove, hstart]
  case nothingElse =>
    intro s t h ha hstarted
    obtain rfl := (step_next_iff s t).mp h
    exact afterMove_starts (s := s.withScript s.nextMove.2) ha hstarted

/-- Settles O22: in ROM mode the invariant keeps the generator idle, and no other move writes the table. -/
theorem romTableIsConstant : Obligations.RomTableIsConstant := by
  unfold Obligations.RomTableIsConstant
  refine ⟨fun k => ⟨tableReady_of_table_eq rfl, rfl, rfl⟩, ?invariant⟩
  intro s hs hinit
  have ha : s.genActive = false := hs.rom_idle hinit
  have hvalid : s.tvalid = true := by rw [hs.tvalid_eq, ha]; rfl
  have htable : s.table = crcTable := table_eq_of_tableReady (hs.ready hvalid)
  refine ⟨hs.ready hvalid, hvalid, generatorStep_idle ha, ?_⟩
  intro t h
  obtain rfl := (step_next_iff s t).mp h
  rw [htable]
  exact afterMove_rom (s := s.withScript s.nextMove.2) hinit ha htable _

end Sys2Proof.Machine
end

section
/-! SUPPORT. The core update step and the final complement as pure functions (rules R101 to R103 and R108). -/

namespace Sys2Proof.Machine

/-- The update step as TABLE of the combined low byte, combined with the shifted register (rule R101). -/
theorem crcUpdate_eq (r : Word) (b : Byte) :
    crcUpdate r b = tableEntry (r.setWidth 8 ^^^ b) ^^^ (r >>> 8) := by
  rw [crcUpdate, updateVia, updateIndex_eq]

theorem crcUpdate_xor (r1 r2 : Word) (b1 b2 : Byte) :
    crcUpdate (r1 ^^^ r2) (b1 ^^^ b2) = crcUpdate r1 b1 ^^^ crcUpdate r2 b2 := by
  have hindex : (r1 ^^^ r2).setWidth 8 ^^^ (b1 ^^^ b2) =
      (r1.setWidth 8 ^^^ b1) ^^^ (r2.setWidth 8 ^^^ b2) := by
    rw [BitVec.setWidth_xor]; ac_rfl
  simp only [crcUpdate_eq, hindex, tableEntry_xor, BitVec.ushiftRight_xor_distrib]
  ac_rfl

/-- A byte equal to the low byte of the register selects entry 0, which is 0 (rule R104). -/
theorem crcUpdate_lowByte (r : Word) : crcUpdate r (r.setWidth 8) = r >>> 8 := by
  have hzero : tableEntry 0#8 = 0#32 := by decide
  rw [crcUpdate_eq, BitVec.xor_self, hzero, BitVec.zero_xor]

/-- From a zero register the step is the table's own entry (rule R104). -/
theorem crcUpdate_zero (b : Byte) : crcUpdate 0#32 b = tableEntry b := by
  simp [crcUpdate_eq]

theorem updatesVia_append (f : Byte → Word) (r : Word) (s1 s2 : List Byte) :
    updatesVia f r (s1 ++ s2) = updatesVia f (updatesVia f r s1) s2 := by
  induction s1 generalizing r with
  | nil => rfl
  | cons b s1 ih => exact ih (updateVia f r b)

theorem crcUpdates_append (r : Word) (s1 s2 : List Byte) :
    crcUpdates r (s1 ++ s2) = crcUpdates (crcUpdates r s1) s2 :=
  updatesVia_append tableEntry r s1 s2

theorem crcFinal_crcFinal (r : Word) : crcFinal (crcFinal r) = r := by
  rw [crcFinal, crcFinal, BitVec.xor_assoc, BitVec.xor_self, BitVec.xor_zero]

/-! ### The obligations -/

/-- Settles O25: UPDATE is TABLE of an index linear in (r, b), combined with a shift of r. -/
theorem updateConcatenatesAndIsLinear : Obligations.UpdateConcatenatesAndIsLinear := by
  unfold Obligations.UpdateConcatenatesAndIsLinear
  refine ⟨crcUpdates_append, crcUpdate_xor, ?special, fun r => rfl⟩
  case special => exact fun r1 r2 b => by simpa using crcUpdate_xor r1 r2 b 0#8

/-- Settles O24: the complement is XOR with a constant, which undoes itself. -/
theorem finalIsItsOwnInverse : Obligations.FinalIsItsOwnInverse := by
  unfold Obligations.FinalIsItsOwnInverse
  exact fun r => ⟨rfl, crcFinal_crcFinal r⟩

end Sys2Proof.Machine
end

section
/-! SUPPORT. UPD and UPDW, the commands that consume input bytes (rules R104 to R106). -/

namespace Sys2Proof.Machine

/-! ### The command words -/

/-- An operand narrower than the bits below OP leaves the OP field alone (rule R61). -/
theorem or_operand_ushiftRight {w : Nat} (op : Word) (x : BitVec w) (hw : w ≤ 24) :
    (op ||| x.setWidth 32) >>> 24 = op >>> 24 := by
  have hbelow : x.setWidth 32 >>> 24 = 0#32 := by
    ext i hi
    simp [BitVec.getLsbD_of_ge x (24 + i) (by omega)]
  rw [BitVec.ushiftRight_or_distrib, hbelow, BitVec.or_zero]

/-- An operand has no bit under a mask that lies above it (rule R61). -/
theorem or_operand_and_mask {w : Nat} (op mask : Word) (x : BitVec w) :
    (op ||| x.setWidth 32) &&& (mask <<< w) = op &&& (mask <<< w) := by
  ext i hi
  by_cases hin : i < w
  · simp [hin]
  · simp [BitVec.getLsbD_of_ge x i (by omega)]

theorem decode_upd (b : Byte) (d : Word) :
    decode ⟨0x04000000#32 ||| b.setWidth 32, d⟩ = .command (.upd b) := by
  have hop : (0x04000000#32 ||| b.setWidth 32) >>> 24 = 4#32 :=
    (or_operand_ushiftRight 0x04000000#32 b (by decide)).trans (by decide)
  have hz : (0x04000000#32 ||| b.setWidth 32) &&& 0x00FFFF00#32 = 0#32 :=
    (or_operand_and_mask 0x04000000#32 0x0000FFFF#32 b).trans (by decide)
  have hb : (0x04000000#32 ||| b.setWidth 32).setWidth 8 = b := by simp
  rw [decode_eq_decodeB_upd (c := ⟨_, d⟩) hop, decodeB_legal _ hz, hb]

theorem decode_updw (n : BitVec 2) (d : Word) :
    decode ⟨0x05000000#32 ||| n.setWidth 32, d⟩ = .command (.updw n d) := by
  have hop : (0x05000000#32 ||| n.setWidth 32) >>> 24 = 5#32 :=
    (or_operand_ushiftRight 0x05000000#32 n (by decide)).trans (by decide)
  have hz : (0x05000000#32 ||| n.setWidth 32) &&& 0x00FFFFFC#32 = 0#32 :=
    (or_operand_and_mask 0x05000000#32 0x003FFFFF#32 n).trans (by decide)
  have hn : (0x05000000#32 ||| n.setWidth 32).setWidth 2 = n := by simp
  rw [decode_eq_decodeW_updw d hop, decodeW_legal _ hz, hn]

/-! ### Consuming bytes -/

/-- While the table is not valid a byte-consuming command waits (rule R187). -/
theorem consumeBytes_held {s : State} (hinvalid : s.tvalid = false) (bytes : List Byte) :
    consumeBytes bytes s = .next s := by
  simp [consumeBytes, held, hinvalid]

theorem consumeBytes_valid {s : State} (hvalid : s.tvalid = true) (bytes : List Byte) :
    consumeBytes bytes s = .next (s.writeR (updatesVia s.readTable s.r bytes)).accept := by
  simp [consumeBytes, accepted, hvalid]

/-- On a ready table the bytes are folded into R by UPDATE* (rule R102). -/
theorem consumeBytes_ready {s : State} (hvalid : s.tvalid = true) (hready : s.TableReady)
    (bytes : List Byte) :
    consumeBytes bytes s = .next { s with r := crcUpdates s.r bytes, head := none } := by
  rw [consumeBytes_valid hvalid, updatesVia_ready hready]; rfl

theorem execAll_upd_cons {s : State} (hvalid : s.tvalid = true) (b : Byte) (rest : List Instr) :
    execAll (.upd b :: rest) s = execAll rest (s.writeR (updateVia s.readTable s.r b)).accept := by
  simp [execAll_cons, State.holds, State.effect, hvalid]

/-- After an accepted command, UPDs one after another fold their bytes into R. -/
theorem execAll_upds_accept {s : State} (hvalid : s.tvalid = true) (bytes : List Byte) :
    execAll (bytes.map .upd) s.accept = .next (s.writeR (updatesVia s.readTable s.r bytes)).accept := by
  induction bytes generalizing s with
  | nil => rfl
  | cons b rest ih =>
    calc execAll (.upd b :: rest.map .upd) s.accept
        = execAll (rest.map .upd) (s.writeR (updateVia s.readTable s.r b)).accept :=
          execAll_upd_cons (s := s.accept) hvalid b _
      _ = .next (s.writeR (updatesVia s.readTable s.r (b :: rest))).accept :=
          ih (s := s.writeR (updateVia s.readTable s.r b)) hvalid

/-- UPDs one after another have the effect of consuming their bytes at once (rule R106). -/
theorem execAll_upds {s : State} (hvalid : s.tvalid = true) {bytes : List Byte} (hne : bytes ≠ []) :
    execAll (bytes.map .upd) s = consumeBytes bytes s := by
  obtain ⟨b, rest, rfl⟩ := List.exists_cons_of_ne_nil hne
  rw [List.map_cons, execAll_upd_cons hvalid, consumeBytes_valid hvalid]
  exact execAll_upds_accept (s := s.writeR (updateVia s.readTable s.r b)) hvalid rest

theorem laneBytes_ne_nil (n : BitVec 2) (d : Word) : laneBytes n d ≠ [] := by
  simp [laneBytes, byteCount]

/-- With n = 1 the one byte is the low byte of DIN (rule R105). -/
theorem laneBytes_zero (d : Word) : laneBytes 0#2 d = [d.setWidth 8] := by
  rw [BitVec.setWidth_eq_extractLsb' (by decide)]; rfl

theorem exec_updw_zero (d : Word) (s : State) :
    exec (.updw 0#2 d) s = exec (.upd (d.setWidth 8)) s :=
  congrArg (consumeBytes · s) (laneBytes_zero d)

/-! ### The obligations -/

/-- Settles O15: UPD consumes its one byte, over TABLE when the table is ready. -/
theorem updConsumesOneByte : Obligations.UpdConsumesOneByte := by
  unfold Obligations.UpdConsumesOneByte
  refine ⟨decode_upd, ?reserved, fun s b => ⟨?held, ?valid, ?ready⟩, crcUpdate_lowByte, crcUpdate_zero,
    ?values⟩
  case reserved =>
    exact rejectsReserved_of_decode fun c hop hz =>
      (decode_eq_decodeB_upd hop).trans (decodeB_reserved _ hz)
  case held => exact fun hinvalid => consumeBytes_held hinvalid [b]
  case valid => exact fun hvalid => consumeBytes_valid hvalid [b]
  case ready => exact fun hvalid hready => consumeBytes_ready hvalid hready [b]
  case values => decide

/-- Settles O16: UPDW consumes the bytes of its lanes, which are written out for each count. -/
theorem updwConsumesLanesInOrder : Obligations.UpdwConsumesLanesInOrder := by
  unfold Obligations.UpdwConsumesLanesInOrder
  refine ⟨decode_updw, ?reserved, ?held, ?lanes, ?ignored, ?corners⟩
  case reserved =>
    exact rejectsReserved_of_decode fun c hop hz =>
      (decode_eq_decodeW_updw c.din hop).trans (decodeW_reserved _ hz)
  case held => exact fun s n d hinvalid => consumeBytes_held hinvalid (laneBytes n d)
  case lanes =>
    intro s d hvalid hready
    have hexec (n : BitVec 2) := consumeBytes_ready hvalid hready (laneBytes n d)
    exact ⟨hexec 0#2, hexec 1#2, hexec 2#2, hexec 3#2⟩
  case ignored =>
    intro s d
    have hlow : (d &&& 0x000000FF#32).setWidth 8 = d.setWidth 8 := by
      rw [BitVec.setWidth_and]; exact BitVec.and_allOnes
    rw [exec_updw_zero, exec_updw_zero, hlow]
  case corners =>
    intro s hvalid hready
    have hexec {r v d : Word} (hv : crcUpdates r (laneBytes 3#2 d) = v) (hr : s.r = r) :
        exec (.updw 3#2 d) s = .next { s with r := v, head := none } := by
      rw [← hv, ← hr]
      exact consumeBytes_ready hvalid hready (laneBytes 3#2 d)
    exact ⟨hexec (by decide +kernel), hexec (by decide +kernel), hexec (by decide +kernel)⟩

/-- Settles O26: both ways consume the bytes of the lanes. -/
theorem updwEqualsUpdsInLaneOrder : Obligations.UpdwEqualsUpdsInLaneOrder := by
  unfold Obligations.UpdwEqualsUpdsInLaneOrder
  intro s n d hvalid lanes
  have hlanes : lanes = laneBytes n d := rfl
  refine ⟨?sameEffect, exec_updw_zero d s, ?ready⟩
  case sameEffect =>
    have hexec := consumeBytes_valid hvalid (laneBytes n d)
    refine ⟨_, _, hexec, ?_, rfl⟩
    rw [hlanes, execAll_upds hvalid (laneBytes_ne_nil n d), hexec]
  case ready => exact fun hready => consumeBytes_ready hvalid hready (laneBytes n d)

end Sys2Proof.Machine
end

section
/-! SUPPORT. The register transfer commands, and the computations they begin and end (rules R120 to R125). -/

namespace Sys2Proof.Machine

/-! ### The command words -/

/-- The opcodes of format N reject every word with a bit in ZERO24 (rule R64). -/
theorem rejectsReserved_formatN {op : Word} (hop : op = 0#32 ∨ op = 1#32 ∨ op = 2#32 ∨ op = 3#32 ∨
    op = 6#32 ∨ op = 7#32) : RejectsReserved op 0x00FFFFFF#32 :=
  rejectsReserved_of_decode fun c hc hz => by
    obtain ⟨i, hdecode⟩ := decode_eq_decodeN_of_op (c := c) (by rwa [hc])
    exact hdecode.trans (decodeN_reserved i hz)

/-- A word of format B with its operand in the place of IMM8 names the command of that operand. -/
theorem decodeB_or_operand {op : Word} (mk : Byte → Instr) (b : Byte)
    (hz : op &&& 0x00FFFF00#32 = 0#32) (hlow : op.setWidth 8 = 0#8) :
    decodeB (op ||| b.setWidth 32) mk = .command (mk b) := by
  have hzero : (op ||| b.setWidth 32) &&& 0x00FFFF00#32 = 0#32 :=
    (or_operand_and_mask op 0x0000FFFF#32 b).trans hz
  have hb : (op ||| b.setWidth 32).setWidth 8 = b := by simp [BitVec.setWidth_or, hlow]
  rw [decodeB_legal mk hzero, hb]

theorem decode_rdtab (idx : Byte) (d : Word) :
    decode ⟨0x08000000#32 ||| idx.setWidth 32, d⟩ = .command (.rdtab idx) := by
  have hop : (0x08000000#32 ||| idx.setWidth 32) >>> 24 = 8#32 :=
    (or_operand_ushiftRight 0x08000000#32 idx (by decide)).trans (by decide)
  rw [decode_eq_decodeB_rdtab (c := ⟨_, d⟩) hop, decodeB_or_operand _ idx (by decide) (by decide)]

/-! ### An instruction without effect -/

/-- An instruction that consumes a head is not held (rule R187). -/
theorem not_holds_of_exec_accept {i : Instr} {s : State} (h : exec i s = .next s.accept)
    (hhead : s.head ≠ none) : s.holds i = false := by
  rw [exec_eq] at h
  cases hheld : s.holds i with
  | false => rfl
  | true =>
    rw [if_pos hheld] at h
    injection h with hs
    exact absurd (congrArg State.head hs) hhead

/-- An instruction that only consumes the head leaves R and DOUT in its effect. -/
theorem effect_of_exec_accept {i : Instr} {s : State} (h : exec i s = .next s.accept)
    (hhead : s.head ≠ none) : (s.effect i).r = s.r ∧ (s.effect i).dout = s.dout := by
  have hfree := not_holds_of_exec_accept h hhead
  rw [exec_eq, hfree, if_neg Bool.false_ne_true] at h
  injection h with hs
  exact ⟨by simpa using congrArg State.r hs, by simpa using congrArg State.dout hs⟩

/-- A block in a generation, so that TGEN and the commands that read the table are held, with a command at
the head, `r` in R and 0 in DOUT. -/
def State.midGeneration (r : Word) : State := { State.reset with head := some ⟨0#32, 0#32⟩, r := r }

/-- In a generation every command but NOP shows an effect: it is held, or it writes R or DOUT. R = 0 and
R = 1 are enough, as no DIN is both. -/
theorem eq_nop_of_exec_accept {i : Instr} (h : ∀ s : State, exec i s = .next s.accept) : i = .nop := by
  have hheld (r : Word) : (State.midGeneration r).holds i = false :=
    not_holds_of_exec_accept (h _) (by simp [State.midGeneration])
  have heffect (r : Word) := effect_of_exec_accept (h (.midGeneration r)) (by simp [State.midGeneration])
  have hr (r : Word) := (heffect r).1
  have hdout (r : Word) := (heffect r).2
  cases i with
  | nop => rfl
  | tgen | upd _ | updw _ _ | rdtab _ => cases (hheld 0#32 : true = false)
  | init => exact absurd (hr 0#32) (by decide)
  | load din =>
    have hzero : din = 0#32 := hr 0#32
    have hone : din = 1#32 := hr 1#32
    exact absurd (hzero.symm.trans hone) (by decide)
  | rdraw => exact absurd (hdout 1#32) (by decide)
  | rdfin => exact absurd (hdout 0#32) (by decide)

/-! ### Commands in sequence -/

/-- A list of commands runs on from the state the list before it leaves. -/
theorem execAll_append {before : List Instr} {s t : State} (h : execAll before s = .next t)
    (rest : List Instr) : execAll (before ++ rest) s = execAll rest t := by
  induction before generalizing s with
  | nil =>
    injection h with hst
    rw [List.nil_append, hst]
  | cons i before ih =>
    rw [execAll_cons] at h
    rw [List.cons_append, execAll_cons]
    exact ih h

/-- The commands that feed input bytes consume them one and the same way (rule R100). -/
theorem exec_eq_consumeBytes {i : Instr} (hfeeds : Instr.feeds i = true) (s : State) :
    exec i s = consumeBytes (Instr.inputBytes i) s := by
  cases i with
  | upd b => rfl
  | updw cnt din => rfl
  | _ => cases hfeeds

/-- After an accepted command, any feeding of the bytes folds them into R. -/
theorem execAll_feeds_accept {s : State} (hvalid : s.tvalid = true) {fed : List Instr} {bytes : List Byte}
    (hfed : FeedsBytes fed bytes) :
    execAll fed s.accept = .next (s.writeR (updatesVia s.readTable s.r bytes)).accept := by
  obtain ⟨hfeeds, rfl⟩ := hfed
  induction fed generalizing s with
  | nil => rfl
  | cons i fed ih =>
    obtain ⟨hi, hrest⟩ := List.forall_mem_cons.mp hfeeds
    have hexec : exec i s.accept =
        .next (s.writeR (updatesVia s.readTable s.r (Instr.inputBytes i))).accept :=
      (exec_eq_consumeBytes hi _).trans (consumeBytes_valid (s := s.accept) hvalid _)
    rw [execAll, hexec, List.flatMap_cons, updatesVia_append]
    exact ih (s := s.writeR (updatesVia s.readTable s.r (Instr.inputBytes i))) hvalid hrest

theorem feedsBytes_upds (bytes : List Byte) : FeedsBytes (bytes.map .upd) bytes := by
  constructor
  case left => simp [Instr.feeds]
  case right => simp [List.flatMap_map, Instr.inputBytes]

/-- INIT begins a computation as LOAD of the sentinel does (rule R120). -/
theorem execAll_init_cons (rest : List Instr) (s : State) :
    execAll (.init :: rest) s = execAll (.load 0xFFFFFFFF#32 :: rest) s := rfl

section Ready

variable {s : State} (hvalid : s.tvalid = true) (hready : s.TableReady)
  {fed : List Instr} {bytes : List Byte} (hfed : FeedsBytes fed bytes) (r : Word)
include hvalid hready hfed

/-- On a ready table a computation from `r` is UPDATE* of its bytes (rule R102). -/
theorem execAll_load_feeds :
    execAll (.load r :: fed) s = .next { s with r := crcUpdates r bytes, head := none } := by
  have hfold := execAll_feeds_accept (s := s.writeR r) hvalid hfed
  rw [updatesVia_ready (s := s.writeR r) hready] at hfold
  exact hfold

/-- The incremental operation leaves the raw register in R and in DOUT (rule R141). -/
theorem execAll_crcContinue :
    execAll (crcContinue fed r) s =
      .next { s with r := crcUpdates r bytes, dout := crcUpdates r bytes, head := none } :=
  execAll_append (execAll_load_feeds hvalid hready hfed r) [.rdraw]

/-- A computation from `r` ended by RDFIN leaves its checksum in DOUT. -/
theorem execAll_load_feeds_rdfin :
    execAll (.load r :: fed ++ [.rdfin]) s =
      .next { s with r := crcUpdates r bytes, dout := crcFinal (crcUpdates r bytes), head := none } :=
  execAll_append (execAll_load_feeds hvalid hready hfed r) [.rdfin]

/-- The single-shot operation leaves the checksum of the bytes in DOUT (rule R140). -/
theorem execAll_crcCompute :
    execAll (crcCompute fed) s = .next { s with
      r := crcUpdates 0xFFFFFFFF#32 bytes, dout := crcFinal (crcUpdates 0xFFFFFFFF#32 bytes),
      head := none } :=
  (execAll_init_cons _ s).trans (execAll_load_feeds_rdfin hvalid hready hfed _)

end Ready

/-- On a valid table RDTAB returns the entry (rule R124). -/
theorem exec_rdtab_valid {s : State} (hvalid : s.tvalid = true) (idx : Byte) :
    exec (.rdtab idx) s = .next { s with dout := s.readTable idx, head := none } := by
  rw [exec_eq, if_neg (by simp [State.holds, hvalid])]
  rfl

/-! ### The obligations -/

/-- Settles O8: NOP only consumes the head, and every other command shows an effect in some state. -/
theorem nopHasNoEffect : Obligations.NopHasNoEffect := by
  unfold Obligations.NopHasNoEffect
  refine ⟨?decodes, rejectsReserved_formatN (by decide), fun s => rfl, fun i h => eq_nop_of_exec_accept h⟩
  case decodes => exact fun d => (decode_eq_decodeN_nop (by simp)).trans (decodeN_legal _ (by simp))

/-- Settles O10: INIT is LOAD of the value that R has after a reset. -/
theorem initBeginsFreshComputation : Obligations.InitBeginsFreshComputation := by
  unfold Obligations.InitBeginsFreshComputation
  refine ⟨?decodes, rejectsReserved_formatN (by decide), fun s => rfl, fun s => rfl, fun init k => rfl⟩
  case decodes => exact fun d => (decode_eq_decodeN_init (by simp)).trans (decodeN_legal _ (by simp))

/-- Settles O11: the computations are feedings after a LOAD, one of them ended by RDFIN. -/
theorem loadSetsTheRegister : Obligations.LoadSetsTheRegister := by
  unfold Obligations.LoadSetsTheRegister
  refine ⟨?decodes, rejectsReserved_formatN (by decide), fun s d => rfl, ?zeroStart, ?computes⟩
  case decodes => exact fun d => (decode_eq_decodeN_load d (by simp)).trans (decodeN_legal _ (by simp))
  case zeroStart =>
    exact fun s bytes hvalid hready => execAll_load_feeds hvalid hready (feedsBytes_upds bytes) 0#32
  case computes =>
    intro s hvalid hready
    have hvalue : crcFinal (crcUpdates 0x617CB792#32 [0x63#8]) = 0x352441C2#32 := by decide +kernel
    exact ⟨_, execAll_load_feeds_rdfin hvalid hready (feedsBytes_upds [0x63#8]) _, hvalue⟩

/-- Settles O12: the example is the incremental operation from the sentinel. -/
theorem rdrawReturnsTheToken : Obligations.RdrawReturnsTheToken := by
  unfold Obligations.RdrawReturnsTheToken
  refine ⟨?decodes, rejectsReserved_formatN (by decide), fun s => rfl, ?afterReset, ?afterInit, ?computes⟩
  case decodes => exact fun d => (decode_eq_decodeN_rdraw (by simp)).trans (decodeN_legal _ (by simp))
  case afterReset => exact fun init k => ⟨_, rfl, rfl⟩
  case afterInit => exact fun s => ⟨_, rfl, rfl⟩
  case computes =>
    intro s hvalid hready
    have hfed : FeedsBytes [.updw 3#2 0x34333231#32] [0x31#8, 0x32#8, 0x33#8, 0x34#8] :=
      ⟨by decide, by decide⟩
    have hvalue : crcUpdates 0xFFFFFFFF#32 [0x31#8, 0x32#8, 0x33#8, 0x34#8] = 0x641C1F5C#32 := by
      decide +kernel
    exact ⟨_, (execAll_init_cons _ s).trans (execAll_crcContinue hvalid hready hfed _), hvalue⟩

/-- Settles O13: RDFIN reads R without writing it, and the example is a computation from the sentinel. -/
theorem rdfinReturnsTheChecksum : Obligations.RdfinReturnsTheChecksum := by
  unfold Obligations.RdfinReturnsTheChecksum
  refine ⟨?decodes, rejectsReserved_formatN (by decide), fun s => rfl, ?sentinel, ?twice, ?computes⟩
  case decodes => exact fun d => (decode_eq_decodeN_rdfin (by simp)).trans (decodeN_legal _ (by simp))
  case sentinel =>
    intro s hr
    have hzero : crcFinal s.r = 0#32 := by rw [hr]; decide
    rw [← hzero]
    rfl
  case twice =>
    intro s t h
    cases h
    rfl
  case computes =>
    intro s hvalid hready
    have hfed := feedsBytes_upds
      [0x31#8, 0x32#8, 0x33#8, 0x34#8, 0x35#8, 0x36#8, 0x37#8, 0x38#8, 0x39#8]
    have hraw : crcUpdates 0xFFFFFFFF#32
        [0x31#8, 0x32#8, 0x33#8, 0x34#8, 0x35#8, 0x36#8, 0x37#8, 0x38#8, 0x39#8] = 0x340BC6D9#32 := by
      decide +kernel
    have hfinal : crcFinal 0x340BC6D9#32 = 0xCBF43926#32 := by decide
    exact ⟨_, execAll_crcCompute hvalid hready hfed, hraw, (congrArg crcFinal hraw).trans hfinal⟩

/-- Settles O14: RDTAB reads the table in the state, which holds TABLE when it is ready. -/
theorem rdtabReturnsTheEntry : Obligations.RdtabReturnsTheEntry := by
  unfold Obligations.RdtabReturnsTheEntry
  refine ⟨decode_rdtab, ?reserved, fun s idx => ⟨?held, ?valid, ?ready⟩, ?values⟩
  case reserved =>
    exact rejectsReserved_of_decode fun c hop hz =>
      (decode_eq_decodeB_rdtab hop).trans (decodeB_reserved _ hz)
  case held => exact fun hinvalid => by simp [exec_eq, State.holds, hinvalid]
  case valid => exact fun hvalid => exec_rdtab_valid hvalid idx
  case ready =>
    intro hvalid hready
    rw [exec_rdtab_valid hvalid, hready idx]
  case values => decide

end Sys2Proof.Machine
end

section
/-! SUPPORT. What two inputs of equal length say about their checksums: linearity and injectivity of UPDATE*
(rule R147). -/

namespace Sys2Proof.Machine

/-! ### Linearity -/

/-- UPDATE* is linear over inputs of equal length (rule R108). -/
theorem crcUpdates_xor {x y : List Byte} (hlen : x.length = y.length) (r1 r2 : Word) :
    crcUpdates (r1 ^^^ r2) (List.zipWith (· ^^^ ·) x y) = crcUpdates r1 x ^^^ crcUpdates r2 y := by
  induction x generalizing y r1 r2 with
  | nil => rw [List.eq_nil_of_length_eq_zero hlen.symm]; rfl
  | cons b1 x ih =>
    obtain ⟨b2, y, rfl⟩ := List.exists_cons_of_length_eq_add_one hlen.symm
    calc crcUpdates (crcUpdate (r1 ^^^ r2) (b1 ^^^ b2)) (List.zipWith (· ^^^ ·) x y)
        = crcUpdates (crcUpdate r1 b1 ^^^ crcUpdate r2 b2) (List.zipWith (· ^^^ ·) x y) := by
          rw [crcUpdate_xor]
      _ = crcUpdates (crcUpdate r1 b1) x ^^^ crcUpdates (crcUpdate r2 b2) y :=
          ih (Nat.succ.inj hlen) _ _

/-- The complements of two registers differ where the registers do. -/
theorem crcFinal_xor_crcFinal (r1 r2 : Word) : crcFinal r1 ^^^ crcFinal r2 = r1 ^^^ r2 := by
  calc crcFinal r1 ^^^ crcFinal r2
      = (r1 ^^^ r2) ^^^ (Config.xorOut ^^^ Config.xorOut) := by unfold crcFinal; ac_rfl
    _ = r1 ^^^ r2 := by rw [BitVec.xor_self, BitVec.xor_zero]

/-! ### Injectivity -/

/-- The top bytes of TABLE are pairwise distinct: by linearity it is enough that only TABLE(0) has the top
byte 0. -/
theorem tableEntry_topByte_inj {i j : Byte}
    (h : (tableEntry i).extractLsb' 24 8 = (tableEntry j).extractLsb' 24 8) : i = j := by
  have hkernel : ∀ k : Byte, (tableEntry k).extractLsb' 24 8 = 0#8 → k = 0#8 := by decide
  have hxor : (tableEntry (i ^^^ j)).extractLsb' 24 8 = 0#8 := by
    rw [tableEntry_xor, BitVec.extractLsb'_xor, h, BitVec.xor_self]
  exact BitVec.xor_eq_zero_iff.mp (hkernel _ hxor)

theorem tableEntry_inj {i j : Byte} (h : tableEntry i = tableEntry j) : i = j :=
  tableEntry_topByte_inj (congrArg _ h)

/-- The shifted register of the update step does not reach the top byte of its result. -/
theorem crcUpdate_topByte (r : Word) (b : Byte) :
    (crcUpdate r b).extractLsb' 24 8 = (tableEntry (r.setWidth 8 ^^^ b)).extractLsb' 24 8 := by
  have hshift : (r >>> 8).extractLsb' 24 8 = 0#8 := by
    ext k hk
    simp [BitVec.getLsbD_of_ge r (8 + (24 + k)) (by omega)]
  rw [crcUpdate_eq, BitVec.extractLsb'_xor, hshift, BitVec.xor_zero]

/-- The result of the update step fixes its index, by the top byte, and then the shifted register. -/
theorem crcUpdate_eq_crcUpdate_iff {r r' : Word} {b b' : Byte} :
    crcUpdate r b = crcUpdate r' b' ↔
      r.setWidth 8 ^^^ b = r'.setWidth 8 ^^^ b' ∧ r >>> 8 = r' >>> 8 := by
  constructor
  case mp =>
    intro h
    have hindex : r.setWidth 8 ^^^ b = r'.setWidth 8 ^^^ b' := by
      apply tableEntry_topByte_inj
      rw [← crcUpdate_topByte, ← crcUpdate_topByte, h]
    rw [crcUpdate_eq, crcUpdate_eq, hindex, BitVec.xor_right_inj] at h
    exact ⟨hindex, h⟩
  case mpr =>
    rintro ⟨hindex, hshift⟩
    rw [crcUpdate_eq, crcUpdate_eq, hindex, hshift]

theorem word_ext_lowByte {r r' : Word} (hlow : r.setWidth 8 = r'.setWidth 8) (hhigh : r >>> 8 = r' >>> 8) :
    r = r' := by
  have hmod := congrArg BitVec.toNat hlow
  have hdiv := congrArg BitVec.toNat hhigh
  simp only [BitVec.toNat_setWidth, BitVec.toNat_ushiftRight, Nat.shiftRight_eq_div_pow] at hmod hdiv
  apply BitVec.eq_of_toNat_eq
  omega

theorem crcUpdate_register_inj {r r' : Word} {b : Byte} (h : crcUpdate r b = crcUpdate r' b) : r = r' := by
  obtain ⟨hindex, hhigh⟩ := crcUpdate_eq_crcUpdate_iff.mp h
  exact word_ext_lowByte ((BitVec.xor_left_inj b).mp hindex) hhigh

theorem crcUpdate_byte_inj {r : Word} {b b' : Byte} (h : crcUpdate r b = crcUpdate r b') : b = b' :=
  (BitVec.xor_right_inj _).mp (crcUpdate_eq_crcUpdate_iff.mp h).1

/-- Two registers that differ stay different whatever is consumed. -/
theorem crcUpdates_register_inj {s : List Byte} {r r' : Word} (h : crcUpdates r s = crcUpdates r' s) :
    r = r' := by
  induction s generalizing r r' with
  | nil => exact h
  | cons b s ih => exact crcUpdate_register_inj (ih h)

theorem crcFinal_inj {r r' : Word} (h : crcFinal r = crcFinal r') : r = r' := by
  rw [← crcFinal_crcFinal r, h, crcFinal_crcFinal]

/-- Inputs that differ in one byte have different checksums. -/
theorem checksum_byte_inj {r : Word} {before after : List Byte} {b b' : Byte}
    (h : crcFinal (crcUpdates r (before ++ b :: after)) = crcFinal (crcUpdates r (before ++ b' :: after))) :
    b = b' := by
  have hraw := crcFinal_inj h
  rw [crcUpdates_append, crcUpdates_append] at hraw
  exact crcUpdate_byte_inj (crcUpdates_register_inj (s := after) hraw)

/-! ### The obligation -/

/-- Settles O27: the update step is injective in its byte and in its register, so a changed byte shows in the
register and stays there. -/
theorem singleBitErrorsAreDetected : Obligations.SingleBitErrorsAreDetected := by
  unfold Obligations.SingleBitErrorsAreDetected
  refine ⟨?flip, ?difference, fun i j => tableEntry_topByte_inj, ?nonzero, fun r r' => crcUpdate_register_inj⟩
  case flip =>
    intro before after b q h
    have hbit : ∀ q : Fin 8, 1#8 <<< q.val ≠ 0#8 := by decide
    have hsame : b ^^^ (1#8 <<< q.val) = b := checksum_byte_inj h
    exact hbit q ((BitVec.xor_right_inj b).mp (hsame.trans BitVec.xor_zero.symm))
  case difference =>
    intro x y hlen
    calc crcFinal (crcUpdates 0xFFFFFFFF#32 x) ^^^ crcFinal (crcUpdates 0xFFFFFFFF#32 y)
        = crcUpdates 0xFFFFFFFF#32 x ^^^ crcUpdates 0xFFFFFFFF#32 y := crcFinal_xor_crcFinal _ _
      _ = crcUpdates (0xFFFFFFFF#32 ^^^ 0xFFFFFFFF#32) (List.zipWith (· ^^^ ·) x y) :=
          (crcUpdates_xor hlen _ _).symm
      _ = crcUpdates 0#32 (List.zipWith (· ^^^ ·) x y) := by rw [BitVec.xor_self]
  case nonzero =>
    intro i hi h
    have hzero : tableEntry 0#8 = 0#32 := by decide
    exact hi (tableEntry_inj (h.trans hzero.symm))

end Sys2Proof.Machine
end

section
/-! SUPPORT. The checksum operations on a ready block (rules R142 and R146). -/

namespace Sys2Proof.Machine

/-- The first command of a feeding does not depend on the head, so neither does a feeding that has one. -/
theorem execAll_feeds_head_indep {s : State} (hvalid : s.tvalid = true) {i : Instr} {fed : List Instr}
    (hi : Instr.feeds i = true) : execAll (i :: fed) s = execAll (i :: fed) s.accept := by
  have hexec : exec i s = exec i s.accept := by
    rw [exec_eq_consumeBytes hi, exec_eq_consumeBytes hi, consumeBytes_valid hvalid,
      consumeBytes_valid (s := s.accept) hvalid]
    rfl
  rw [execAll, execAll, hexec]

/-- Any feeding of the bytes leaves in R the fold of the bytes over the block's table (rule R146). -/
theorem execAll_feeds_r {s : State} (hvalid : s.tvalid = true) {fed : List Instr} {bytes : List Byte}
    (hfed : FeedsBytes fed bytes) :
    ∃ t, execAll fed s = .next t ∧ t.r = updatesVia s.readTable s.r bytes := by
  cases fed with
  | nil =>
    obtain ⟨-, rfl⟩ := hfed
    exact ⟨s, rfl, rfl⟩
  | cons i fed =>
    obtain ⟨hi, -⟩ := List.forall_mem_cons.mp hfed.1
    exact ⟨_, (execAll_feeds_head_indep hvalid hi).trans (execAll_feeds_accept hvalid hfed), rfl⟩

/-- An incremental operation leaves its token, and a table as ready for the next one as it found it (rule
R141). -/
theorem crcContinue_session {s : State} (hvalid : s.tvalid = true) (hready : s.TableReady)
    {fed : List Instr} {bytes : List Byte} (hfed : FeedsBytes fed bytes) (token : Word) :
    ∃ t, execAll (crcContinue fed token) s = .next t ∧ t.tvalid = true ∧ t.TableReady ∧
      t.r = crcUpdates token bytes ∧ t.dout = crcUpdates token bytes :=
  ⟨_, execAll_crcContinue hvalid hready hfed token, hvalid, hready, rfl, rfl⟩

/-- UPDATE* over chunk after chunk is UPDATE* over all their bytes (rule R146). -/
theorem foldl_crcUpdates (chunks : List (List Byte)) (r : Word) :
    chunks.foldl crcUpdates r = crcUpdates r chunks.flatten := by
  induction chunks generalizing r with
  | nil => rfl
  | cons chunk chunks ih => rw [List.foldl_cons, ih, List.flatten_cons, crcUpdates_append]

/-! ### The obligations -/

/-- Settles O32: RDRAW and RDFIN read the same register, the latter through the complement. -/
theorem finishingTwoWaysAgrees : Obligations.FinishingTwoWaysAgrees := by
  unfold Obligations.FinishingTwoWaysAgrees
  intro s fed bytes token hvalid hready hfed
  exact ⟨_, _, execAll_crcContinue hvalid hready hfed token, rfl, rfl, rfl⟩

/-- Settles O33: every session on a ready block is UPDATE* of its bytes, and UPDATE* concatenates. -/
theorem chainingLaw : Obligations.ChainingLaw := by
  unfold Obligations.ChainingLaw
  refine ⟨?twoChunks, fun chunks => congrArg crcFinal (foldl_crcUpdates chunks _), ?anySplit⟩
  case twoChunks =>
    intro s fed1 fed2 fed s1 s2 hvalid hready hfed1 hfed2 hfed
    obtain ⟨t, hrun1, hvalid1, hready1, -, htoken⟩ := crcContinue_session hvalid hready hfed1 0xFFFFFFFF#32
    obtain ⟨u, hrun2, -, -, hr, hdout⟩ := crcContinue_session hvalid1 hready1 hfed2 t.dout
    have hconcat : crcUpdates t.dout s2 = crcUpdates 0xFFFFFFFF#32 (s1 ++ s2) := by
      rw [htoken, crcUpdates_append]
    exact ⟨t, u, _, hrun1, hrun2, execAll_crcCompute hvalid hready hfed,
      congrArg crcFinal (hdout.trans hconcat), hr.trans hconcat⟩
  case anySplit =>
    intro s fed fed' bytes hvalid hfed hfed'
    obtain ⟨t, hrun, hr⟩ := execAll_feeds_r hvalid hfed
    obtain ⟨t', hrun', hr'⟩ := execAll_feeds_r hvalid hfed'
    exact ⟨t, t', hrun, hrun', hr.trans hr'.symm⟩

end Sys2Proof.Machine
end

section
/-! SUPPORT. The host's reset: the step that makes it, and the state it leaves (rules R30 and R180). -/

namespace Sys2Proof.Machine

/-- The reserved bits of STATUS are hardwired 0 in every state, so no step has to clear them (rule R30). -/
theorem State.status_and_reserved (s : State) : s.status &&& 0xFFFFFF0C#32 = 0#32 :=
  calc s.status &&& 0xFFFFFF0C#32
      = (0#24 &&& 0xFFFFFF#24) ++ (s.ecause &&& 0#4) ++ (0#2 &&& 3#2) ++
          (BitVec.ofBool s.err &&& 0#1) ++ (BitVec.ofBool s.tvalid &&& 0#1) := by
        simp only [← BitVec.and_append]; rfl
    _ = 0#32 := by simp only [BitVec.zero_and, BitVec.and_zero]; rfl

/-- A scripted reset is the next move, whatever stands at the head and whatever is being generated. -/
theorem step_of_script_reset {s : State} {rest : List Event} (h : s.script = .reset :: rest) :
    step s = .next (s.withScript rest).hostReset := by
  have move : s.nextMove = (.reset, rest) := by rw [State.nextMove, h]
  rw [step_eq, move]
  rfl

/-- A reset of a ROM block leaves the constant table. -/
theorem hostReset_tableReady {s : State} (hinit : s.tableInit = .rom) : s.hostReset.TableReady :=
  tableReady_of_table_eq (by rw [State.hostReset_table, hinit]; rfl)

/-! ### The obligation -/

/-- Settles O40: the step is the reset, whose fields are those of the reset table in either mode. -/
theorem resetSetsEveryPieceOfState : Obligations.ResetSetsEveryPieceOfState := by
  unfold Obligations.ResetSetsEveryPieceOfState
  intro s rest hscript
  refine ⟨_, step_of_script_reset hscript, rfl, rfl, rfl, rfl, rfl, rfl, rfl, rfl,
    State.status_and_reserved _, ?generate, ?rom⟩
  case generate =>
    intro hinit
    simp [hinit]
  case rom =>
    intro hinit
    exact ⟨by simp [hinit], by simp [hinit], hostReset_tableReady hinit⟩

end Sys2Proof.Machine
end

section
/-! SUPPORT. What the engine's turn can do, the generator step field by field, and runs by invariants. -/

namespace Sys2Proof.Machine

/-! ### The generator step, field by field -/

@[simp] theorem generatorStep_observed (s : State) : (generatorStep s).observed = s.observed :=
  (generatorStep_frame s).1
@[simp] theorem generatorStep_r (s : State) : (generatorStep s).r = s.r :=
  congrArg Observed.r (generatorStep_observed s)
@[simp] theorem generatorStep_dout (s : State) : (generatorStep s).dout = s.dout :=
  congrArg Observed.dout (generatorStep_observed s)
@[simp] theorem generatorStep_err (s : State) : (generatorStep s).err = s.err :=
  congrArg Observed.err (generatorStep_observed s)
@[simp] theorem generatorStep_ecause (s : State) : (generatorStep s).ecause = s.ecause :=
  congrArg Observed.ecause (generatorStep_observed s)
@[simp] theorem generatorStep_head (s : State) : (generatorStep s).head = s.head :=
  (generatorStep_frame s).2.1
@[simp] theorem generatorStep_script (s : State) : (generatorStep s).script = s.script :=
  (generatorStep_frame s).2.2.1
@[simp] theorem generatorStep_tableInit (s : State) : (generatorStep s).tableInit = s.tableInit :=
  (generatorStep_frame s).2.2.2.1
@[simp] theorem generatorStep_draws (s : State) : (generatorStep s).draws = s.draws :=
  (generatorStep_frame s).2.2.2.2

/-! ### The engine's turn -/

theorem holdsCommand_command {c : Command} {i : Instr} (hd : decode c = .command i) (s : State) :
    s.holdsCommand c = s.holds i := by
  simp only [State.holdsCommand, hd]

theorem holdsCommand_illegal {c : Command} {cause : Cause} (hd : decode c = .illegal cause) (s : State) :
    s.holdsCommand c = false := by
  simp only [State.holdsCommand, hd]

/-- The hold rule reads TVALID and GEN_ACTIVE alone (rule R187). -/
theorem holds_congr {s u : State} (hv : u.tvalid = s.tvalid) (ha : u.genActive = s.genActive) (i : Instr) :
    u.holds i = s.holds i := by
  cases i <;> simp only [State.holds, hv, ha]

theorem holdsCommand_congr {s u : State} (hv : u.tvalid = s.tvalid) (ha : u.genActive = s.genActive)
    (c : Command) : u.holdsCommand c = s.holdsCommand c := by
  cases hd : decode c with
  | command i => rw [holdsCommand_command hd, holdsCommand_command hd, holds_congr hv ha]
  | illegal cause => rw [holdsCommand_illegal hd, holdsCommand_illegal hd]

theorem exec_free {i : Instr} {s : State} (hfree : s.holds i = false) :
    exec i s = .next (s.effect i).accept := by
  rw [exec_eq, hfree]; rfl

/-- Without a head the engine has no step (rule R173). -/
theorem afterEngine_none {s : State} (hh : s.head = none) : s.afterEngine = s := by
  simp only [State.afterEngine, hh]

theorem afterEngine_command {s : State} {c : Command} {i : Instr} (hh : s.head = some c)
    (hd : decode c = .command i) :
    s.afterEngine = if s.holds i then s else (s.effect i).accept := by
  simp only [State.afterEngine, hh, hd]

/-- Everything the engine's turn can do: nothing, without a head or with a held one, or it consumes the
head, a command by its effect and an illegal word by recording its cause. -/
theorem afterEngine_cases (s : State) :
    (s.afterEngine = s ∧ ∀ c, s.head = some c → s.holdsCommand c = true) ∨
    (∃ c i, s.head = some c ∧ decode c = .command i ∧ s.holds i = false ∧
      s.afterEngine = (s.effect i).accept) ∨
    (∃ c cause, s.head = some c ∧ decode c = .illegal cause ∧
      s.afterEngine = (s.recordError cause).accept) := by
  cases hh : s.head with
  | none => exact .inl ⟨afterEngine_none hh, fun c hc => by cases hc⟩
  | some c =>
    cases hd : decode c with
    | illegal cause => exact .inr (.inr ⟨c, cause, rfl, hd, afterEngine_illegal hh hd⟩)
    | command i =>
      have hrun := afterEngine_command hh hd
      cases hheld : s.holds i with
      | true =>
        refine .inl ⟨by rw [hrun, if_pos hheld], fun c' hc => ?_⟩
        injection hc with hc
        rw [← hc, holdsCommand_command hd, hheld]
      | false => exact .inr (.inl ⟨c, i, rfl, hd, hheld, by rw [hrun, hheld]; rfl⟩)

/-! ### Runs -/

/-- What every step keeps, every run keeps. -/
theorem runFrom_keeps {P : State → Prop} (keep : ∀ s t, P s → step s = .next t → P t)
    {k : Nat} {s t : State} (hs : P s) (h : runFrom k s = .next t) : P t :=
  runFrom_induction (fun s hs => keep s _ hs (step_eq s)) hs h

/-- A run of k + 1 steps, by the state its first step leaves. -/
theorem runFrom_succ_of_step {k : Nat} {s t : State} (h : step s = .next t) :
    runFrom (k + 1) s = runFrom k t := by
  rw [runFrom_succ, (step_next_iff s t).mp h]

end Sys2Proof.Machine
end

section
/-! SUPPORT. The invariant of the machine: it holds after a reset, and every move keeps it. -/

namespace Sys2Proof.Machine

/-! ### States of the invariant -/

theorem resetOf_inv (init : TableInit) (draw : Nat) : (State.resetOf init draw).Inv where
  tvalid_eq := by cases init <;> rfl
  ready hvalid := by
    cases init with
    | generate => cases hvalid
    | rom => exact tableReady_of_table_eq rfl
  built _ i hi := absurd hi (Nat.not_lt_zero i.toNat)
  gk_le := Nat.zero_le 8
  gw_eq := rfl
  rom_idle hinit := by cases hinit; rfl
  ecause_le := Nat.zero_le 2
  err_iff := ⟨fun _ => rfl, fun _ => rfl⟩

/-- A produced code is not "none" (rules R33 and R160). -/
theorem causeCode_produced (cause : Cause) : (causeCode cause).toNat ≤ 2 ∧ causeCode cause ≠ 0#4 := by
  cases cause <;> decide

namespace State.Inv

variable {s : State} (h : s.Inv)
include h

/-- The invariant speaks neither of R and DOUT nor of the head and the model's own fields. -/
theorem frame (r d : Word) (c : Option Command) (l : List Event) (n : Nat) :
    State.Inv { s with r := r, dout := d, head := c, script := l, draws := n } where
  tvalid_eq := h.tvalid_eq
  ready := h.ready
  built := h.built
  gk_le := h.gk_le
  gw_eq := h.gw_eq
  rom_idle := h.rom_idle
  ecause_le := h.ecause_le
  err_iff := h.err_iff

theorem accept : s.accept.Inv := h.frame _ _ _ _ _

theorem generating (ha : s.genActive = true) : s.Generating where
  active := ha
  gk_le := h.gk_le
  gw_eq := h.gw_eq
  built := h.built ha

theorem tvalid_of_active (ha : s.genActive = true) : s.tvalid = false := by
  rw [h.tvalid_eq, ha]; rfl

/-! ### The moves -/

/-- A generation is started in GENERATE mode only. -/
theorem startGeneration (hinit : s.tableInit = .generate) : s.startGeneration.Inv where
  tvalid_eq := rfl
  ready hvalid := by cases hvalid
  built _ i hi := absurd hi (Nat.not_lt_zero i.toNat)
  gk_le := Nat.zero_le 8
  gw_eq := rfl
  rom_idle hrom := by cases hinit.symm.trans hrom
  ecause_le := h.ecause_le
  err_iff := h.err_iff

theorem afterGeneration : s.afterGeneration.Inv where
  tvalid_eq := rfl
  ready _ := tableReady_of_table_eq rfl
  built ha := by cases ha
  gk_le := Nat.le_refl 8
  gw_eq := by simp [tableEntry]
  rom_idle _ := rfl
  ecause_le := h.ecause_le
  err_iff := h.err_iff

theorem effect (i : Instr) : (s.effect i).Inv := by
  cases i with
  | tgen =>
    simp only [State.effect]
    split
    case h_1 hinit => exact h.startGeneration hinit
    case h_2 => exact h
  | nop => exact h
  | _ => exact h.frame _ _ _ _ _

/-- An error records a code that is produced, and records it with ERR. -/
theorem recordError (cause : Cause) : (s.recordError cause).Inv := by
  unfold State.recordError
  split
  · exact h
  · exact { h with
      ecause_le := (causeCode_produced cause).1
      err_iff := iff_of_false (fun herr => by cases herr) (causeCode_produced cause).2 }

theorem afterEngine : s.afterEngine.Inv := by
  rcases afterEngine_cases s with ⟨e, _⟩ | ⟨c, i, _, _, _, e⟩ | ⟨c, cause, _, _, e⟩ <;> rw [e]
  · exact h
  · exact (h.effect i).accept
  · exact (h.recordError cause).accept

/-- A step of a generation either ends it or leaves it in progress. -/
theorem generatorStep : (generatorStep s).Inv := by
  cases ha : s.genActive with
  | false => rw [generatorStep_idle ha]; exact h
  | true =>
    have hgen := h.generating ha
    rcases generatorStep_progress ha h.gk_le with ⟨hone, _⟩ | ⟨ha', hv', _⟩
    · obtain ⟨hk, hi⟩ := last_of_stepsToGo hone
      rw [hgen.step_last hk hi]
      exact h.afterGeneration
    · have hgen' := hgen.step_generating ha'
      have hinvalid := hv'.trans (h.tvalid_of_active ha)
      exact {
        tvalid_eq := by rw [hinvalid, ha']; rfl
        ready := fun hvalid => by rw [hinvalid] at hvalid; cases hvalid
        built := fun _ => hgen'.built
        gk_le := hgen'.gk_le
        gw_eq := hgen'.gw_eq
        rom_idle := fun hrom => by
          rw [generatorStep_tableInit] at hrom
          cases ha.symm.trans (h.rom_idle hrom)
        ecause_le := by rw [generatorStep_ecause]; exact h.ecause_le
        err_iff := by rw [generatorStep_err, generatorStep_ecause]; exact h.err_iff }

theorem afterMove (m : Event) : (s.afterMove m).Inv := by
  cases m with
  | reset => exact (resetOf_inv s.tableInit (s.draws + 1)).frame _ _ _ _ _
  | present c => exact h.frame _ _ _ _ _
  | engine => exact h.afterEngine
  | generator => exact h.generatorStep
  | idle => exact h

end State.Inv

theorem State.Inv.step {s t : State} (hs : s.Inv) (h : step s = .next t) : t.Inv := by
  obtain rfl := (step_next_iff s t).mp h
  exact (hs.frame _ _ _ s.nextMove.2 _).afterMove _

/-! ### The obligations -/

/-- Settles O39: the next move is made on a state that differs in its script, and every move keeps the
invariant. -/
theorem everyStepKeepsTheInvariant : Obligations.EveryStepKeepsTheInvariant := by
  unfold Obligations.EveryStepKeepsTheInvariant
  exact fun s t hs h => hs.step h

/-- Settles O38: a reset table is ready in ROM mode, and in GENERATE mode no entry of it counts as built. -/
theorem resetMeetsTheInvariant : Obligations.ResetMeetsTheInvariant := by
  unfold Obligations.ResetMeetsTheInvariant
  exact ⟨resetOf_inv _ 0, resetOf_inv⟩

end Sys2Proof.Machine
end

section
/-! SUPPORT. The round trips between instructions and command words, and the assembler (rules R63 to R67). -/

namespace Sys2Proof.Machine

/-! ### Words as an opcode with an operand -/

/-- A word is its bits from `w` on with its low `w` bits as the operand. -/
theorem eq_or_operand_of_and_mask {w : Nat} {cmd high : Word}
    (h : cmd &&& (BitVec.allOnes 32 <<< w) = high) : cmd = high ||| (cmd.setWidth w).setWidth 32 := by
  rw [← h, ← BitVec.shiftLeft_ushiftRight]
  ext i hi
  by_cases hlow : i < w
  · simp [hlow, hi]
  · simp [hlow, Nat.add_sub_cancel' (Nat.le_of_not_lt hlow), BitVec.getLsbD_eq_getElem hi]

/-- A word with nothing but zeros in its ZERO field is OP above that field. -/
theorem and_mask_of_op {cmd zero op : Word} (hop : cmd >>> 24 = op) (hz : cmd &&& zero = 0#32) :
    cmd &&& (zero ||| (BitVec.allOnes 32 <<< 24)) = op <<< 24 := by
  rw [BitVec.and_or_distrib_left, hz, BitVec.zero_or, ← BitVec.shiftLeft_ushiftRight, hop]

/-! ### Decoding what was encoded -/

/-- Every instruction is read back from its own encoding. -/
theorem decode_encode (i : Instr) : decode (encode i) = .command i := by
  cases i with
  | upd b => exact decode_upd b _
  | updw n d => exact decode_updw n d
  | rdtab idx => exact decode_rdtab idx _
  | load d => exact (decode_eq_decodeN_load d (by decide)).trans (decodeN_legal _ (by decide))
  | _ => decide

/-! ### Encoding what was decoded -/

/-- A legal word of format N is its opcode alone. -/
theorem decodeN_eq_command {cmd op : Word} {i i' : Instr} (hop : cmd >>> 24 = op)
    (h : decodeN cmd i' = .command i) : cmd = op <<< 24 ∧ i' = i := by
  by_cases hz : cmd &&& 0x00FFFFFF#32 = 0#32
  · rw [decodeN_legal _ hz] at h
    exact ⟨BitVec.and_allOnes.symm.trans (and_mask_of_op hop hz), Decoded.command.inj h⟩
  · rw [decodeN_reserved _ hz] at h
    cases h

/-- A legal word of format B is its opcode with an operand in the place of IMM8. -/
theorem decodeB_eq_command {cmd op : Word} {i : Instr} {mk : Byte → Instr} (hop : cmd >>> 24 = op)
    (h : decodeB cmd mk = .command i) : ∃ b, cmd = op <<< 24 ||| b.setWidth 32 ∧ mk b = i := by
  by_cases hz : cmd &&& 0x00FFFF00#32 = 0#32
  · rw [decodeB_legal _ hz] at h
    exact ⟨_, eq_or_operand_of_and_mask (and_mask_of_op hop hz), Decoded.command.inj h⟩
  · rw [decodeB_reserved _ hz] at h
    cases h

/-- A legal word of format W is its opcode with an operand in the place of CNT. -/
theorem decodeW_eq_command {cmd op : Word} {i : Instr} {mk : BitVec 2 → Instr} (hop : cmd >>> 24 = op)
    (h : decodeW cmd mk = .command i) : ∃ n, cmd = op <<< 24 ||| n.setWidth 32 ∧ mk n = i := by
  by_cases hz : cmd &&& 0x00FFFFFC#32 = 0#32
  · rw [decodeW_legal _ hz] at h
    exact ⟨_, eq_or_operand_of_and_mask (and_mask_of_op hop hz), Decoded.command.inj h⟩
  · rw [decodeW_reserved _ hz] at h
    cases h

/-- A legal command word has one of the nine opcodes (rule R64). -/
theorem op_of_decode_command {c : Command} {i : Instr} (h : decode c = .command i) :
    c.cmd >>> 24 ≤ 8#32 := by
  by_contra hbig
  rw [decode_illegalOpcode (BitVec.not_le.mp hbig)] at h
  cases h

/-- A command that decodes to an instruction is its encoding, but for a data word it ignores. -/
theorem encode_of_decode {c : Command} {i : Instr} (h : decode c = .command i) :
    encode i = ⟨c.cmd, if c.cmd >>> 24 = 3#32 ∨ c.cmd >>> 24 = 5#32 then c.din else 0#32⟩ := by
  have hle := op_of_decode_command h
  have hops : c.cmd >>> 24 = 0#32 ∨ c.cmd >>> 24 = 1#32 ∨ c.cmd >>> 24 = 2#32 ∨ c.cmd >>> 24 = 3#32 ∨
      c.cmd >>> 24 = 4#32 ∨ c.cmd >>> 24 = 5#32 ∨ c.cmd >>> 24 = 6#32 ∨ c.cmd >>> 24 = 7#32 ∨
      c.cmd >>> 24 = 8#32 := by bv_omega
  rcases hops with hop | hop | hop | hop | hop | hop | hop | hop | hop <;> rw [hop]
  · obtain ⟨hcmd, rfl⟩ := decodeN_eq_command hop ((decode_eq_decodeN_nop hop).symm.trans h)
    rw [hcmd]; rfl
  · obtain ⟨hcmd, rfl⟩ := decodeN_eq_command hop ((decode_eq_decodeN_tgen hop).symm.trans h)
    rw [hcmd]; rfl
  · obtain ⟨hcmd, rfl⟩ := decodeN_eq_command hop ((decode_eq_decodeN_init hop).symm.trans h)
    rw [hcmd]; rfl
  · obtain ⟨hcmd, rfl⟩ := decodeN_eq_command hop ((decode_eq_decodeN_load c.din hop).symm.trans h)
    rw [hcmd]; rfl
  · obtain ⟨_, hcmd, rfl⟩ := decodeB_eq_command hop ((decode_eq_decodeB_upd hop).symm.trans h)
    rw [hcmd]; rfl
  · obtain ⟨_, hcmd, rfl⟩ := decodeW_eq_command hop ((decode_eq_decodeW_updw c.din hop).symm.trans h)
    rw [hcmd]; rfl
  · obtain ⟨hcmd, rfl⟩ := decodeN_eq_command hop ((decode_eq_decodeN_rdraw hop).symm.trans h)
    rw [hcmd]; rfl
  · obtain ⟨hcmd, rfl⟩ := decodeN_eq_command hop ((decode_eq_decodeN_rdfin hop).symm.trans h)
    rw [hcmd]; rfl
  · obtain ⟨_, hcmd, rfl⟩ := decodeB_eq_command hop ((decode_eq_decodeB_rdtab hop).symm.trans h)
    rw [hcmd]; rfl

/-! ### The opcode table -/

/-- Every instruction encodes to a word that matches one row of the opcode table. -/
theorem matchCount_encode (i : Instr) : matchCount (encode i).cmd = 1 := by
  have hlegal : legalWord (encode i).cmd = true := by
    cases i with
    | nop => exact Laws.EncodesLegalWord.nop.2
    | tgen => exact Laws.EncodesLegalWord.tgen.2
    | init => exact Laws.EncodesLegalWord.init.2
    | load d => exact (Laws.EncodesLegalWord.load d).2
    | upd b => exact (Laws.EncodesLegalWord.upd b).2
    | updw n d => exact (Laws.EncodesLegalWord.updw n d).2
    | rdraw => exact Laws.EncodesLegalWord.rdraw.2
    | rdfin => exact Laws.EncodesLegalWord.rdfin.2
    | rdtab idx => exact (Laws.EncodesLegalWord.rdtab idx).2
  exact beq_iff_eq.mp hlegal

/-- The word of an opcode of format N, with no operand, is legal. -/
theorem decode_opcode_formatN {cmd word : Word} (hcmd : cmd &&& 0xFFFFFFFF#32 = word)
    (hop : word >>> 24 = 0#32 ∨ word >>> 24 = 1#32 ∨ word >>> 24 = 2#32 ∨ word >>> 24 = 3#32 ∨
      word >>> 24 = 6#32 ∨ word >>> 24 = 7#32)
    (hz : word &&& 0x00FFFFFF#32 = 0#32) (din : Word) : ∃ i, decode ⟨cmd, din⟩ = .command i := by
  obtain rfl : cmd = word := BitVec.and_allOnes.symm.trans hcmd
  obtain ⟨i, hdecode⟩ := decode_eq_decodeN_of_op (c := ⟨cmd, din⟩) hop
  exact ⟨i, hdecode.trans (decodeN_legal i hz)⟩

/-- A word that matches a row of the opcode table is legal: the fixed bits of the row are the opcode and
the ZERO field. -/
theorem decode_of_matches (cmd din : Word) :
    ∀ row ∈ opcodeTable, row.matches cmd = true → ∃ i, decode ⟨cmd, din⟩ = .command i := by
  simp only [opcodeTable, List.forall_mem_cons, OpRow.matches, beq_iff_eq]
  refine ⟨?nop, ?tgen, ?init, ?load, ?upd, ?updw, ?rdraw, ?rdfin, ?rdtab, ?noMore⟩
  case upd =>
    intro hbits
    rw [eq_or_operand_of_and_mask (w := 8) hbits]
    exact ⟨_, decode_upd _ din⟩
  case updw =>
    intro hbits
    rw [eq_or_operand_of_and_mask (w := 2) hbits]
    exact ⟨_, decode_updw _ din⟩
  case rdtab =>
    intro hbits
    rw [eq_or_operand_of_and_mask (w := 8) hbits]
    exact ⟨_, decode_rdtab _ din⟩
  case noMore => exact fun row hrow => absurd hrow List.not_mem_nil
  all_goals exact fun hbits => decode_opcode_formatN hbits (by decide) (by decide) din

/-! ### The assembler -/

/-- A number that fits the operand's width is the operand of the line. -/
theorem ofNat_eq_operand {w n : Nat} (hw : w ≤ 32) (hn : n < 2 ^ w) :
    BitVec.ofNat 32 n = (BitVec.ofNat w n).setWidth 32 := by
  have hle : 2 ^ w ≤ 2 ^ 32 := Nat.pow_le_pow_right (by decide) hw
  apply BitVec.eq_of_toNat_eq
  rw [BitVec.toNat_setWidth, BitVec.toNat_ofNat, BitVec.toNat_ofNat, Nat.mod_eq_of_lt hn]

theorem assemble_accepted {line : Asm} (h : line.accepted = true) : assemble line = some line.command :=
  if_pos h

theorem assemble_refused {line : Asm} (h : line.accepted = false) : assemble line = none :=
  if_neg (by simp [h])

/-! ### The obligations -/

/-- Settles O1: the decoder evaluates on each of the words. -/
theorem sampleWordsDecodeAsTabled : Obligations.SampleWordsDecodeAsTabled := by
  unfold Obligations.SampleWordsDecodeAsTabled
  decide

/-- Settles O4: each encoding has the opcode and the operand of its instruction, and a ZERO field of
zeros. -/
theorem decodeOfEncodeIsIdentity : Obligations.DecodeOfEncodeIsIdentity := by
  unfold Obligations.DecodeOfEncodeIsIdentity
  exact decode_encode

/-- Settles O5: a legal word is its opcode with its operand, which is how instructions are encoded. -/
theorem encodeOfDecodeIsTheWord : Obligations.EncodeOfDecodeIsTheWord := by
  unfold Obligations.EncodeOfDecodeIsTheWord
  intro c i h
  rw [encode_of_decode h]
  exact ⟨rfl, rfl⟩

/-- Settles O3: a decoded word is an encoding, which matches one row, and the bits a row fixes make a word
legal. -/
theorem legalWordsMatchOneTableRow : Obligations.LegalWordsMatchOneTableRow := by
  unfold Obligations.LegalWordsMatchOneTableRow
  intro c
  constructor
  case mp =>
    rintro ⟨i, h⟩
    have hcmd : (encode i).cmd = c.cmd := by rw [encode_of_decode h]
    exact hcmd ▸ matchCount_encode i
  case mpr =>
    intro hone
    obtain ⟨row, hfilter⟩ := List.length_eq_one_iff.mp hone
    obtain ⟨hrow, hm⟩ := List.mem_filter.mp (hfilter ▸ List.mem_singleton_self row)
    exact decode_of_matches c.cmd c.din row hrow hm

/-- Settles O7: an accepted line's operand is within its field, so its word is that of an encoding. -/
theorem assemblerEmitsAndRefuses : Obligations.AssemblerEmitsAndRefuses := by
  unfold Obligations.AssemblerEmitsAndRefuses
  refine ⟨by decide, ?load, ?upd, ?updw, ?rdtab, ?word, ?noLoad, ?noByte, fun imm => rfl, ?noUpdw⟩
  case load =>
    intro imm himm
    exact ⟨_, assemble_accepted (decide_eq_true (by omega)), decode_encode (.load _)⟩
  case upd =>
    intro b hb
    refine ⟨_, assemble_accepted (decide_eq_true hb), rfl, ?_⟩
    rw [Asm.command, ofNat_eq_operand (w := 8) (n := b) (by decide) (by omega)]
    exact decode_upd _ _
  case updw =>
    intro n imm hn1 hn4 himm
    refine ⟨_, assemble_accepted (by simp [Asm.accepted]; omega), ?_⟩
    rw [Asm.command, ofNat_eq_operand (w := 2) (n := n - 1) (by decide) (by omega)]
    exact decode_updw _ _
  case rdtab =>
    intro idx hidx
    refine ⟨_, assemble_accepted (decide_eq_true hidx), rfl, ?_⟩
    rw [Asm.command, ofNat_eq_operand (w := 8) (n := idx) (by decide) (by omega)]
    exact decode_rdtab _ _
  case word =>
    intro w
    have hw := w.isLt
    rw [assemble_accepted (line := .word w.toNat) (decide_eq_true (by omega)), Asm.command, BitVec.ofNat_toNat,
      BitVec.setWidth_eq]
  case noLoad => exact fun imm himm => assemble_refused (decide_eq_false (by omega))
  case noByte =>
    exact fun b hb => ⟨assemble_refused (decide_eq_false (Nat.not_le.mpr hb)),
      assemble_refused (decide_eq_false (Nat.not_le.mpr hb))⟩
  case noUpdw => exact fun n imm hn => assemble_refused (by simp [Asm.accepted]; omega)

end Sys2Proof.Machine
end

section
/-! SUPPORT. The commands not yet accepted, and the refinement: a step keeps what they will compute. -/

namespace Sys2Proof.Machine

/-! ### Accepting a command -/

/-- An accepted command does to the observed values what it does over the pure TABLE. -/
theorem effect_accept_observed {s : State} (hs : s.Inv) {c : Command} {i : Instr}
    (hd : decode c = .command i) (hfree : s.holds i = false) :
    (s.effect i).accept.observed = pureCommand s.observed c := by
  simp only [pureCommand, hd]
  exact effect_observed hs.ready i hfree

theorem recordError_accept_observed (s : State) {c : Command} {cause : Cause}
    (hd : decode c = .illegal cause) :
    (s.recordError cause).accept.observed = pureCommand s.observed c := by
  simp only [pureCommand, hd]
  exact recordError_observed s cause

/-- The engine's turn changes nothing, or accepts a head that is not held. -/
theorem afterEngine_accepts (s : State) :
    (s.afterEngine = s ∧ ∀ c, s.head = some c → s.holdsCommand c = true) ∨
    ∃ c, s.head = some c ∧ s.holdsCommand c = false ∧ s.afterEngine.head = none ∧
      s.afterEngine.script = s.script ∧ (s.Inv → s.afterEngine.observed = pureCommand s.observed c) := by
  rcases afterEngine_cases s with idle | ⟨c, i, hh, hd, hfree, e⟩ | ⟨c, cause, hh, hd, e⟩
  · exact .inl idle
  · rw [e]
    exact .inr ⟨c, hh, by rw [holdsCommand_command hd, hfree], rfl, (effect_frame s i).1,
      fun hs => effect_accept_observed hs hd hfree⟩
  · rw [e]
    exact .inr ⟨c, hh, holdsCommand_illegal hd s, rfl, State.recordError_script s cause,
      fun _ => recordError_accept_observed s hd⟩

/-! ### The generation in progress -/

/-- How many generator steps end the generation in progress: 0 where there is none. -/
def State.generationLeft (s : State) : Nat := if s.genActive then s.stepsToGo else 0

theorem generationLeft_le (s : State) : s.generationLeft ≤ 2304 := by
  unfold State.generationLeft State.stepsToGo
  split <;> omega

theorem generationLeft_pos {s : State} (ha : s.genActive = true) : 0 < s.generationLeft := by
  simp [State.generationLeft, State.stepsToGo, ha]

/-- A generator step brings a generation in progress nearer to its end (rule R84). -/
theorem generationLeft_generatorStep (s : State) :
    (generatorStep s).generationLeft ≤ s.generationLeft - 1 := by
  rcases generatorStep_cases s with ⟨ha, e⟩ | ⟨ha, hk, e⟩ | ⟨ha, hk, hi, e⟩ | ⟨ha, hk, hi, e⟩ <;> rw [e]
  · simp [State.generationLeft, ha]
  · simp only [State.generationLeft, State.stepsToGo, ha, gk_succ hk, if_true]
    omega
  · simp [State.generationLeft]
  · have hgi : (s.gi + 1#8).toNat ≤ 255 := Nat.le_of_lt_succ (s.gi + 1#8).isLt
    simp only [State.generationLeft, State.stepsToGo, State.writeTable_genActive, ha, gi_succ hi,
      BitVec.toNat_ofNat, if_true] at hgi ⊢
    omega

/-! ### The pending commands -/

theorem pending_congr {s t : State} (hhead : t.head = s.head)
    (hscript : t.script.filterMap Event.presented = s.script.filterMap Event.presented) :
    t.pending = s.pending := by
  rw [State.pending, State.pending, hhead, hscript]

/-- A presented command becomes the head, and keeps its place. -/
theorem pending_present {s : State} {c : Command} {rest : List Event} (hh : s.head = none)
    (hscript : s.script = .present c :: rest) : ((s.withScript rest).present c).pending = s.pending := by
  simp [State.pending, hh, hscript, Event.presented]

/-- An accepted head is the first of the pending commands. -/
theorem pending_of_accept {s t : State} {c : Command} (hh : s.head = some c) (hh' : t.head = none)
    (hscript : t.script.filterMap Event.presented = s.script.filterMap Event.presented) :
    s.pending = c :: t.pending := by
  simp [State.pending, hh, hh', hscript]

/-- Everything a step without reset can do to the pending commands and the observed values: it keeps both, and
starts no generation, or the engine takes the first command, with its own effect. -/
theorem step_pending {s t : State} (h : step s = .next t) (hm : s.nextMove.1 ≠ .reset) :
    (t.pending = s.pending ∧ t.observed = s.observed ∧ t.generationLeft ≤ s.generationLeft) ∨
    (s.nextMove.1 = .engine ∧ ∃ c, s.head = some c ∧ s.pending = c :: t.pending ∧ t.head = none ∧
      (s.Inv → t.observed = pureCommand s.observed c)) := by
  obtain rfl := (step_next_iff s t).mp h
  have hscript := nextMove_presented (s := s)
  cases hmove : s.nextMove.1 with
  | reset => exact absurd hmove hm
  | present c =>
    obtain ⟨hh, hs⟩ := nextMove_present hmove
    exact .inl ⟨pending_present hh hs, rfl, Nat.le_refl _⟩
  | idle => exact .inl ⟨pending_congr rfl (hscript (by simp [hmove])), rfl, Nat.le_refl _⟩
  | generator =>
    refine .inl ⟨pending_congr (generatorStep_head _) ?_, generatorStep_observed _,
      (generationLeft_generatorStep _).trans (Nat.sub_le _ 1)⟩
    rw [afterMove_script]
    exact hscript (by simp [hmove])
  | engine =>
    have hkept := hscript (by simp [hmove])
    rcases afterEngine_accepts (s.withScript s.nextMove.2) with ⟨e, _⟩ | ⟨c, hh, _, hh', hs, hobs⟩
    · rw [State.afterMove, e]
      exact .inl ⟨pending_congr rfl hkept, rfl, Nat.le_refl _⟩
    · refine .inr ⟨rfl, c, hh, pending_of_accept hh hh' ?_, hh', fun hinv => hobs (hinv.frame _ _ _ _ _)⟩
      rw [State.afterMove, hs]
      exact hkept

/-! ### The refinement -/

/-- What the observed values will be once every pending command has been accepted. -/
def State.outcome (s : State) : Observed := s.pending.foldl pureCommand s.observed

/-- With nothing pending the outcome is there. -/
theorem outcome_of_quiet {s : State} (h : s.Quiet) : s.outcome = s.observed := by
  obtain ⟨hhead, hscript⟩ := h
  simp [State.outcome, State.pending, hhead, hscript]

theorem State.NoReset.nextMove {s : State} (h : s.NoReset) : s.nextMove.1 ≠ .reset :=
  fun hm => h _ (nextMove_reset_mem hm) rfl

theorem State.NoReset.step {s t : State} (hs : s.NoReset) (h : step s = .next t) : t.NoReset := by
  obtain rfl := (step_next_iff s t).mp h
  intro e he
  rw [afterMove_script] at he
  exact hs e (nextMove_script_mem s e he)

/-- A step changes nothing about the outcome: a command it accepts is taken off the list and applied. -/
theorem step_outcome {s t : State} (hinv : s.Inv) (hs : s.NoReset) (h : step s = .next t) :
    t.outcome = s.outcome := by
  rcases step_pending h hs.nextMove with ⟨hp, ho, _⟩ | ⟨_, c, _, hp, _, hobs⟩
  · rw [State.outcome, State.outcome, hp, ho]
  · rw [State.outcome, State.outcome, hp, List.foldl_cons, hobs hinv]

/-- A run without reset keeps the invariant and the outcome. -/
theorem runFrom_outcome {k : Nat} {s t : State} (hinv : s.Inv) (hs : s.NoReset)
    (h : runFrom k s = .next t) : t.outcome = s.outcome := by
  have hkeeps : ∀ u v : State, u.Inv ∧ u.NoReset ∧ u.outcome = s.outcome → step u = .next v →
      v.Inv ∧ v.NoReset ∧ v.outcome = s.outcome := fun u v ⟨huinv, hu, ho⟩ hstep =>
    ⟨huinv.step hstep, hu.step hstep, (step_outcome huinv hu hstep).trans ho⟩
  obtain ⟨_, _, ho⟩ := runFrom_keeps hkeeps ⟨hinv, hs, rfl⟩ h
  exact ho

/-! ### The obligations -/

/-- Settles O46: of the moves only the engine's takes a command off, and it takes the head. -/
theorem commandsAreAcceptedInOrder : Obligations.CommandsAreAcceptedInOrder := by
  unfold Obligations.CommandsAreAcceptedInOrder
  intro s t h hm
  rcases step_pending h hm with ⟨hp, _⟩ | ⟨hmove, c, hh, hp, hh', _⟩
  · exact .inl hp
  · exact .inr ⟨hmove, c, hh, hp, hh'⟩

/-- Settles O47: every step keeps the outcome, and in a quiet state the outcome is what the host observes. -/
theorem blockRefinesThePureOperations : Obligations.BlockRefinesThePureOperations := by
  unfold Obligations.BlockRefinesThePureOperations
  intro k s t hinv hs h hquiet
  exact (outcome_of_quiet hquiet).symm.trans (runFrom_outcome hinv hs h)

end Sys2Proof.Machine
end

section
/-! SUPPORT. Two blocks that differ only in entries of T not built yet (rule R36) move alike. -/

namespace Sys2Proof.Machine

/-! ### The generator step, an equation per case (rule R84) -/

section GeneratorStep

variable {s : State} (ha : s.genActive = true)
include ha

theorem generatorStep_iterate (hk : s.gk.toNat < 8) :
    generatorStep s = { s with gw := genStep s.gw, gk := s.gk + 1#4 } := by
  have hlt : s.gk < 8#4 := BitVec.lt_def.mpr hk
  simp [generatorStep, ha, hlt]

theorem generatorStep_lastEntry (hk : 8 ≤ s.gk.toNat) (hi : s.gi = 255#8) :
    generatorStep s = { s.writeTable s.gi s.gw with genActive := false, tvalid := true } := by
  have hge : ¬ s.gk < 8#4 := fun h => absurd (BitVec.lt_def.mp h) (Nat.not_lt.mpr hk)
  simp [generatorStep, ha, hge, hi]

theorem generatorStep_nextEntry (hk : 8 ≤ s.gk.toNat) (hi : s.gi ≠ 255#8) :
    generatorStep s = { s.writeTable s.gi s.gw with
      gi := s.gi + 1#8, gk := 0#4, gw := (s.gi + 1#8).setWidth 32 } := by
  have hge : ¬ s.gk < 8#4 := fun h => absurd (BitVec.lt_def.mp h) (Nat.not_lt.mpr hk)
  simp [generatorStep, ha, hge, hi]

end GeneratorStep

/-! ### The relation is kept by every move -/

theorem SameBuilt.refl (s : State) : SameBuilt s s := ⟨rfl, fun _ _ => rfl⟩

theorem SameBuilt.exists_table {s u : State} (h : SameBuilt s u) : ∃ T, u = { s with table := T } :=
  ⟨u.table, h.rest_eq.symm⟩

/-- The relation speaks of no field but the table, and of which entries are built. -/
theorem SameBuilt.frame {s u : State} (h : SameBuilt s u) (r d : Word) (e : Bool) (n : BitVec 4)
    (c : Option Command) (l : List Event) :
    SameBuilt { s with r := r, dout := d, err := e, ecause := n, head := c, script := l }
      { u with r := r, dout := d, err := e, ecause := n, head := c, script := l } := by
  obtain ⟨T, rfl⟩ := h.exists_table
  exact ⟨rfl, h.built_eq⟩

theorem SameBuilt.accept {s u : State} (h : SameBuilt s u) : SameBuilt s.accept u.accept := by
  obtain ⟨T, rfl⟩ := h.exists_table
  exact h.frame _ _ _ _ _ _

theorem SameBuilt.recordError {s u : State} (h : SameBuilt s u) (cause : Cause) :
    SameBuilt (s.recordError cause) (u.recordError cause) := by
  obtain ⟨T, rfl⟩ := h.exists_table
  unfold State.recordError
  split
  · exact h
  · exact h.frame _ _ _ _ _ _

/-- A command that is not held reads the table only when every entry is built (rule R187). -/
theorem SameBuilt.effect {s u : State} (h : SameBuilt s u) {i : Instr} (hfree : s.holds i = false) :
    SameBuilt (s.effect i) (u.effect i) := by
  obtain ⟨T, rfl⟩ := h.exists_table
  have hread : (!s.tvalid) = false → State.readTable { s with table := T } = s.readTable := fun hv =>
    funext fun x => (h.built_eq x (.inl (by simpa using hv))).symm
  cases i with
  | nop => exact h
  | tgen =>
    simp only [State.effect]
    split
    · exact ⟨rfl, fun x hx => by simp at hx⟩
    · exact h
  | upd b =>
    simp only [State.effect, hread hfree]
    exact h.frame _ _ _ _ _ _
  | updw n d =>
    simp only [State.effect, hread hfree]
    exact h.frame _ _ _ _ _ _
  | rdtab x =>
    simp only [State.effect, hread hfree]
    exact h.frame _ _ _ _ _ _
  | _ => exact h.frame _ _ _ _ _ _

theorem SameBuilt.head_eq {s u : State} (h : SameBuilt s u) : u.head = s.head := by
  obtain ⟨T, rfl⟩ := h.exists_table
  rfl

/-- The hold rule does not read the table. -/
theorem SameBuilt.holds_eq {s u : State} (h : SameBuilt s u) (i : Instr) : u.holds i = s.holds i := by
  obtain ⟨T, rfl⟩ := h.exists_table
  exact holds_congr rfl rfl i

theorem SameBuilt.afterEngine {s u : State} (h : SameBuilt s u) :
    SameBuilt s.afterEngine u.afterEngine := by
  cases hh : s.head with
  | none =>
    rw [afterEngine_none hh, afterEngine_none (h.head_eq.trans hh)]
    exact h
  | some c =>
    cases hd : decode c with
    | illegal cause =>
      rw [afterEngine_illegal hh hd, afterEngine_illegal (h.head_eq.trans hh) hd]
      exact (h.recordError cause).accept
    | command i =>
      rw [afterEngine_command hh hd, afterEngine_command (h.head_eq.trans hh) hd, h.holds_eq]
      cases hheld : s.holds i with
      | true => exact h
      | false => exact (h.effect hheld).accept

/-- Writing the same value to entry GI makes every entry up to GI agree. -/
theorem SameBuilt.readTable_write {s u : State} (h : SameBuilt s u) {i : Byte}
    (hi : s.tvalid = true ∨ i.toNat ≤ s.gi.toNat) (v : Word) : (s.writeTable s.gi v).readTable i = (u.writeTable s.gi v).readTable i := by
  rw [readTable_writeTable, readTable_writeTable]
  split
  case isTrue => rfl
  case isFalse hne =>
    have hlt : i.toNat ≠ s.gi.toNat := fun h' => hne (BitVec.eq_of_toNat_eq h')
    exact h.built_eq i (hi.imp_right fun hle => by omega)

theorem SameBuilt.generatorStep {s u : State} (h : SameBuilt s u) :
    SameBuilt (generatorStep s) (generatorStep u) := by
  obtain ⟨T, rfl⟩ := h.exists_table
  rcases generatorStep_cases s with ⟨ha, e⟩ | ⟨ha, hk, e⟩ | ⟨ha, hk, hi, e⟩ | ⟨ha, hk, hi, e⟩ <;> rw [e]
  · rw [generatorStep_idle (s := { s with table := T }) ha]
    exact h
  · rw [generatorStep_iterate (s := { s with table := T }) ha hk]
    exact ⟨rfl, h.built_eq⟩
  · rw [generatorStep_lastEntry (s := { s with table := T }) ha hk hi]
    exact ⟨rfl, fun x _ => h.readTable_write (.inr (by rw [hi]; exact Nat.le_of_lt_succ x.isLt)) s.gw⟩
  · rw [generatorStep_nextEntry (s := { s with table := T }) ha hk hi]
    refine ⟨rfl, fun x hx => h.readTable_write (hx.imp_right fun hlt => ?_) s.gw⟩
    simp only [gi_succ hi] at hlt
    omega

theorem SameBuilt.afterMove {s u : State} (h : SameBuilt s u) (m : Event) :
    SameBuilt (s.afterMove m) (u.afterMove m) := by
  cases m with
  | reset =>
    obtain ⟨T, rfl⟩ := h.exists_table
    exact SameBuilt.refl _
  | present c =>
    obtain ⟨T, rfl⟩ := h.exists_table
    exact h.frame _ _ _ _ _ _
  | engine => exact h.afterEngine
  | generator => exact h.generatorStep
  | idle => exact h

/-- The choice of the next move does not read the table. -/
theorem SameBuilt.nextMove {s u : State} (h : SameBuilt s u) : u.nextMove = s.nextMove := by
  obtain ⟨T, rfl⟩ := h.exists_table
  rfl

/-! ### Runs -/

theorem SameBuilt.runFrom {k : Nat} {s u t v : State} (h : SameBuilt s u) (hs : runFrom k s = .next t)
    (hu : runFrom k u = .next v) : SameBuilt t v := by
  induction k generalizing s u with
  | zero =>
    rw [runFrom_zero] at hs hu
    cases hs; cases hu
    exact h
  | succ k ih =>
    rw [runFrom_succ] at hs hu
    refine ih ?_ hs hu
    rw [h.nextMove]
    obtain ⟨T, rfl⟩ := h.exists_table
    exact SameBuilt.afterMove (h.frame _ _ _ _ _ _) _

/-! ### The obligation -/

/-- Settles O50: no move reads an entry that is not built, so the blocks stay alike but for such entries. -/
theorem unbuiltEntriesAreUnobservable : Obligations.UnbuiltEntriesAreUnobservable := by
  unfold Obligations.UnbuiltEntriesAreUnobservable
  intro k s u h
  obtain ⟨t, ht⟩ := runFrom_next k s
  obtain ⟨v, hv⟩ := runFrom_next k u
  have hsame := h.runFrom ht hv
  refine ⟨t, v, ht, hv, hsame, ?_⟩
  obtain ⟨T, rfl⟩ := hsame.exists_table
  exact ⟨rfl, rfl⟩

end Sys2Proof.Machine
end

section
/-! SUPPORT. Frames: what an instruction and a move leave unchanged, the layout of STATUS, and the statements
about single instructions and steps that follow. -/

namespace Sys2Proof.Machine

/-! ### The instructions -/

theorem exec_next {i : Instr} {s t : State} (h : exec i s = .next t) :
    t = s ∨ t = (s.effect i).accept := by
  rw [exec_eq] at h
  injection h with h
  rw [← h]
  split
  · exact .inl rfl
  · exact .inr rfl

/-- The instructions that write R (rule R21). -/
theorem effect_r (s : State) (i : Instr) :
    (s.effect i).r = s.r ∨ i = .init ∨ (∃ d, i = .load d) ∨ (∃ b, i = .upd b) ∨ ∃ n d, i = .updw n d := by
  cases i with
  | init => exact .inr (.inl rfl)
  | load d => exact .inr (.inr (.inl ⟨d, rfl⟩))
  | upd b => exact .inr (.inr (.inr (.inl ⟨b, rfl⟩)))
  | updw n d => exact .inr (.inr (.inr (.inr ⟨n, d, rfl⟩)))
  | tgen => simp only [State.effect]; split <;> exact .inl rfl
  | _ => exact .inl rfl

/-- The instructions that write DOUT (rule R22). -/
theorem effect_dout (s : State) (i : Instr) :
    (s.effect i).dout = s.dout ∨ i = .rdraw ∨ i = .rdfin ∨ ∃ x, i = .rdtab x := by
  cases i with
  | rdraw => exact .inr (.inl rfl)
  | rdfin => exact .inr (.inr (.inl rfl))
  | rdtab x => exact .inr (.inr (.inr ⟨x, rfl⟩))
  | tgen => simp only [State.effect]; split <;> exact .inl rfl
  | _ => exact .inl rfl

/-- Only TGEN writes TVALID and the generator's registers (rule R83). -/
theorem effect_generator (s : State) {i : Instr} (hi : i ≠ .tgen) :
    (s.effect i).tvalid = s.tvalid ∧ (s.effect i).genActive = s.genActive ∧ (s.effect i).gi = s.gi ∧
      (s.effect i).gk = s.gk ∧ (s.effect i).gw = s.gw := by
  cases i with
  | tgen => exact absurd rfl hi
  | _ => exact ⟨rfl, rfl, rfl, rfl, rfl⟩

/-! ### The moves -/

/-- Of the moves other than reset, only the engine executing a legal head writes R or DOUT. -/
theorem afterMove_registers (s : State) {m : Event} (hm : m ≠ .reset) :
    ((s.afterMove m).r = s.r ∧ (s.afterMove m).dout = s.dout) ∨
    (m = .engine ∧ ∃ c i, s.head = some c ∧ decode c = .command i ∧
      s.afterMove m = (s.effect i).accept) := by
  cases m with
  | reset => exact absurd rfl hm
  | present c => exact .inl ⟨rfl, rfl⟩
  | idle => exact .inl ⟨rfl, rfl⟩
  | generator => exact .inl ⟨generatorStep_r s, generatorStep_dout s⟩
  | engine =>
    rcases afterEngine_cases s with ⟨e, _⟩ | ⟨c, i, hh, hd, _, e⟩ | ⟨c, cause, _, _, e⟩ <;>
      rw [State.afterMove, e]
    · exact .inl ⟨rfl, rfl⟩
    · exact .inr ⟨rfl, c, i, hh, hd, rfl⟩
    · exact .inl ⟨State.recordError_r s cause, State.recordError_dout s cause⟩

/-- Of the moves other than reset, only the generator finishing entry GI writes the table (rule R36). -/
theorem afterMove_table (s : State) {m : Event} (hm : m ≠ .reset) :
    (s.afterMove m).table = s.table ∨
    (m = .generator ∧ s.genActive = true ∧ 8 ≤ s.gk.toNat ∧
      (s.afterMove m).table = s.table.set s.gi.toNat s.gw s.gi.isLt) := by
  cases m with
  | reset => exact absurd rfl hm
  | present c => exact .inl rfl
  | idle => exact .inl rfl
  | engine => exact .inl (afterEngine_table s).1
  | generator =>
    rcases generatorStep_cases s with ⟨_, e⟩ | ⟨_, _, e⟩ | ⟨ha, hk, _, e⟩ | ⟨ha, hk, _, e⟩ <;>
      rw [State.afterMove, e]
    · exact .inl rfl
    · exact .inl rfl
    · exact .inr ⟨rfl, ha, hk, rfl⟩
    · exact .inr ⟨rfl, ha, hk, rfl⟩

theorem afterEngine_draws (s : State) : s.afterEngine.draws = s.draws := by
  rcases afterEngine_cases s with ⟨e, _⟩ | ⟨c, i, _, _, _, e⟩ | ⟨c, cause, _, _, e⟩ <;> rw [e]
  · obtain ⟨_, _, _, _, _, _, hdraws⟩ := effect_frame s i
    exact hdraws
  · exact State.recordError_draws s cause

/-- No move writes the parameter, and only a reset counts as a draw (logs 1 and 3). -/
theorem afterMove_parameters (s : State) (m : Event) :
    (s.afterMove m).tableInit = s.tableInit ∧ (m ≠ .reset → (s.afterMove m).draws = s.draws) := by
  cases m with
  | engine => exact ⟨(afterEngine_table s).2, fun _ => afterEngine_draws s⟩
  | generator => exact ⟨generatorStep_tableInit s, fun _ => generatorStep_draws s⟩
  | reset => exact ⟨rfl, fun h => absurd rfl h⟩
  | present c => exact ⟨rfl, fun _ => rfl⟩
  | idle => exact ⟨rfl, fun _ => rfl⟩

/-! ### STATUS -/

/-- A field of STATUS above TVALID is a field of the error record. -/
theorem status_field (s : State) (start len : Nat) :
    s.status.extractLsb' (start + 1) len =
      (0#24 ++ s.ecause ++ 0#2 ++ BitVec.ofBool s.err).extractLsb' start len :=
  BitVec.extractLsb'_append_eq_of_le (Nat.le_add_left 1 start)

/-! ### The obligations -/

/-- Settles O17: a held command leaves the state, and an accepted one has its effect and is consumed. -/
theorem commandFrames : Obligations.CommandFrames := by
  unfold Obligations.CommandFrames
  intro i s t h
  rcases exec_next h with rfl | rfl
  case inl =>
    exact ⟨.inl rfl, fun _ _ _ _ => rfl, fun _ _ _ => rfl, fun _ => ⟨rfl, rfl, rfl, rfl, rfl⟩,
      rfl, rfl, rfl, fun _ => rfl, rfl, rfl, rfl, rfl⟩
  case inr =>
    obtain ⟨hscript, _, htable, herr, hecause, hinit, hdraws⟩ := effect_frame s i
    refine ⟨.inr rfl, ?r, ?dout, effect_generator s, herr, hecause, ?status, ?readTable, htable, hinit,
      hscript, hdraws⟩
    case r =>
      intro hupd hupdw hload hini
      rcases effect_r s i with hr | hi | ⟨d, hi⟩ | ⟨b, hi⟩ | ⟨n, d, hi⟩
      · exact hr
      · exact absurd hi hini
      · exact absurd hi (hload d)
      · exact absurd hi (hupd b)
      · exact absurd hi (hupdw n d)
    case dout =>
      intro hrdraw hrdfin hrdtab
      rcases effect_dout s i with hr | hi | hi | ⟨x, hi⟩
      · exact hr
      · exact absurd hi hrdraw
      · exact absurd hi hrdfin
      · exact absurd hi (hrdtab x)
    case status =>
      rw [status_field _ 0, status_field _ 0, State.accept_ecause, State.accept_err, hecause, herr]
    case readTable =>
      intro x
      simp only [State.readTable, State.accept_table, htable]

/-- Settles O18: a read command writes DOUT from R or the table, which it leaves. -/
theorem readCommandsAreIdempotent : Obligations.ReadCommandsAreIdempotent := by
  unfold Obligations.ReadCommandsAreIdempotent
  rintro i s t hread h
  rcases exec_next h with rfl | rfl
  case inl => exact ⟨h, rfl, rfl⟩
  case inr =>
    rw [exec_eq]
    rcases hread with rfl | rfl | ⟨x, rfl⟩ <;> exact ⟨by split <;> rfl, rfl, rfl⟩

/-- Settles O34: RDRAW leaves R in DOUT, and LOAD is never held. -/
theorem savedComputationsResume : Obligations.SavedComputationsResume := by
  unfold Obligations.SavedComputationsResume
  exact fun s => ⟨_, rfl, rfl, fun other u _ => ⟨_, rfl, rfl⟩⟩

/-- Settles O51: the engine's move is the effect of the head command, which writes R or DOUT. -/
theorem registerWriters : Obligations.RegisterWriters := by
  unfold Obligations.RegisterWriters
  intro s t h hm
  obtain rfl := (step_next_iff s t).mp h
  rcases afterMove_registers (s.withScript s.nextMove.2) hm with ⟨hr, hdout⟩ | ⟨hmove, c, i, hh, hd, e⟩
  · exact ⟨fun hne => absurd hr hne, fun hne => absurd hdout hne⟩
  · rw [e]
    exact ⟨fun hne => ⟨hmove, c, i, hh, hd, (effect_r _ i).resolve_left hne⟩,
      fun hne => ⟨hmove, c, i, hh, hd, (effect_dout _ i).resolve_left hne⟩⟩

/-- Settles O23: of the moves other than reset only the generator's writes the table. -/
theorem onlyTheGeneratorWritesTheTable : Obligations.OnlyTheGeneratorWritesTheTable := by
  unfold Obligations.OnlyTheGeneratorWritesTheTable
  intro s t h hne
  obtain rfl := (step_next_iff s t).mp h
  by_cases hm : s.nextMove.1 = .reset
  · exact .inl hm
  · exact .inr ((afterMove_table (s.withScript s.nextMove.2) hm).resolve_left hne)

/-- Settles O52: a reset draws the table, and the other moves keep both fields. -/
theorem parameterNeverChanges : Obligations.ParameterNeverChanges := by
  unfold Obligations.ParameterNeverChanges
  intro s t h
  obtain rfl := (step_next_iff s t).mp h
  obtain ⟨hinit, hdraws⟩ := afterMove_parameters (s.withScript s.nextMove.2) s.nextMove.1
  refine ⟨hinit, ?reset, fun hm => ⟨hdraws hm, ?table⟩⟩
  case reset =>
    intro hm
    rw [hm]
    exact ⟨rfl, rfl⟩
  case table =>
    rcases afterMove_table (s.withScript s.nextMove.2) hm with keep | ⟨hmove, _, _, hset⟩
    · exact .inl keep
    · exact .inr ⟨hmove, hset⟩

/-- Settles O35: the exception records a first cause, and the instructions do not read the record. -/
theorem illegalCommandRecordsFirstCause : Obligations.IllegalCommandRecordsFirstCause := by
  unfold Obligations.IllegalCommandRecordsFirstCause
  refine ⟨fun c s cause hd => ⟨?first, ?later⟩, ?next, fun i s t e h => exec_errorRecord_indep true e h⟩
  case first =>
    intro herr
    rw [execCommand_eq, hd]
    cases cause <;> simp [State.recordError, State.accept, causeCode, herr]
  case later =>
    intro herr
    rw [execCommand_eq, hd]
    simp [State.recordError, State.accept, herr]
  case next =>
    intro s c rest hh hs
    have hmove : s.nextMove = (.present c, rest) := by simp only [State.nextMove, hs, hh]
    rw [step_eq, hmove]
    rfl

/-- Settles O37: every move leaves a state. -/
theorem everyStepAnswersNext : Obligations.EveryStepAnswersNext := by
  unfold Obligations.EveryStepAnswersNext
  exact fun s => ⟨_, step_eq s⟩

/-- Settles O53: STATUS is its fields side by side. -/
theorem statusLayout : Obligations.StatusLayout := by
  unfold Obligations.StatusLayout
  intro s
  refine ⟨?tvalid, ?err, ?ecause, ?low, ?high, rfl, fun k => ?rom⟩
  case tvalid => exact BitVec.getLsbD_append.trans (by simp)
  case err =>
    exact BitVec.getLsbD_append.trans ((if_neg (by decide)).trans (BitVec.getLsbD_append.trans (by simp)))
  case ecause =>
    exact (status_field s 3 4).trans ((BitVec.extractLsb'_append_eq_of_le (by decide)).trans
      ((BitVec.extractLsb'_append_eq_of_le (by decide)).trans BitVec.extractLsb'_append_eq_right))
  case low =>
    exact (status_field s 1 2).trans ((BitVec.extractLsb'_append_eq_of_le (by decide)).trans
      BitVec.extractLsb'_append_eq_right)
  case high =>
    exact (status_field s 7 24).trans ((BitVec.extractLsb'_append_eq_of_le (by decide)).trans
      ((BitVec.extractLsb'_append_eq_of_le (by decide)).trans BitVec.extractLsb'_append_eq_left))
  case rom => simp [State.status, State.resetOf]

end Sys2Proof.Machine
end

section
/-! SUPPORT. Who has the turn, what the engine does with the head in its turn, and the hold rule. -/

namespace Sys2Proof.Machine

/-! ### The next move -/

theorem nextMove_of_script_engine {s : State} {rest : List Event} (hs : s.script = .engine :: rest) :
    s.nextMove = (.engine, rest) := by
  simp only [State.nextMove, hs]

/-- With nothing to come, or a command waiting behind the head, the script gives no turn (log 4). -/
theorem nextMove_unscripted {s : State} {c : Command} (hh : s.head = some c)
    (hs : s.script = [] ∨ ∃ c' rest, s.script = .present c' :: rest) :
    s.nextMove = (s.freeTurn, s.script) := by
  rcases hs with hs | ⟨c', rest, hs⟩ <;> simp only [State.nextMove, hs, hh]

theorem freeTurn_free {s : State} {c : Command} (hh : s.head = some c) (hfree : s.holdsCommand c = false) :
    s.freeTurn = .engine := by
  simp [State.freeTurn, hh, hfree]

theorem freeTurn_held {s : State} {c : Command} (hh : s.head = some c) (hheld : s.holdsCommand c = true)
    (ha : s.genActive = true) : s.freeTurn = .generator := by
  simp [State.freeTurn, hh, hheld, ha]

theorem engineStep_of_head {s : State} {c : Command} (hh : s.head = some c) :
    engineStep s = execCommand c s := by
  simp only [engineStep, hh]

theorem execCommand_command {c : Command} {i : Instr} (hd : decode c = .command i) (s : State) :
    execCommand c s = exec i s := by
  simp only [execCommand, hd]

theorem execCommand_illegal {c : Command} {cause : Cause} (hd : decode c = .illegal cause) (s : State) :
    execCommand c s = raiseIllegal cause s := by
  simp only [execCommand, hd]

/-- A scripted turn of the engine executes the head. -/
theorem step_of_script_engine {s : State} {c : Command} {rest : List Event} (hh : s.head = some c)
    (hs : s.script = .engine :: rest) : step s = execCommand c { s with script := rest } := by
  have hstep : step s = engineStep { s with script := rest } := by
    rw [step, machineStep, nextMove_of_script_engine hs]
    rfl
  exact hstep.trans (engineStep_of_head hh)

section Unscripted

variable {s : State} {c : Command} (hh : s.head = some c)
  (hs : s.script = [] ∨ ∃ c' rest, s.script = .present c' :: rest)
include hh hs

/-- An unscripted turn executes a head that is not held. -/
theorem step_unscripted_free (hfree : s.holdsCommand c = false) : step s = execCommand c s := by
  have hstep : step s = engineStep s := by
    rw [step, machineStep, nextMove_unscripted hh hs, freeTurn_free hh hfree]
    rfl
  exact hstep.trans (engineStep_of_head hh)

/-- An unscripted turn is the generator's while the head is held (log 20). -/
theorem step_unscripted_held (hheld : s.holdsCommand c = true) (ha : s.genActive = true) :
    step s = .next (generatorStep s) := by
  rw [step, machineStep, nextMove_unscripted hh hs, freeTurn_held hh hheld ha]
  rfl

end Unscripted

/-! ### The placed command -/

theorem instr?_eq_some {d : Decoded} {i : Instr} (h : d.instr? = some i) : d = .command i := by
  cases d with
  | command j => exact congrArg Decoded.command (Option.some.inj h)
  | illegal cause => cases h

/-- With the table valid and no generation active nothing is held (rule R187). -/
theorem holds_eq_false {s : State} (hv : s.tvalid = true) (ha : s.genActive = false) (i : Instr) :
    s.holds i = false := by
  cases i <;> simp [State.holds, hv, ha]

theorem holdsCommand_eq_false {s : State} (hv : s.tvalid = true) (ha : s.genActive = false) (c : Command) :
    s.holdsCommand c = false := by
  cases hd : decode c with
  | command i => rw [holdsCommand_command hd, holds_eq_false hv ha]
  | illegal cause => exact holdsCommand_illegal hd s

theorem placeCommand_observed (s : State) (c : Command) : (s.placeCommand c).observed = s.observed := by
  unfold State.placeCommand
  split <;> rfl

/-- A placed command is not held: a generation that would hold it has ended. -/
theorem placeCommand_holds {c : Command} {i : Instr} (hd : decode c = .command i) (s : State) :
    (s.placeCommand c).holds i = false := by
  unfold State.placeCommand
  split
  case isTrue => exact holds_eq_false rfl rfl i
  case isFalse hfree =>
    rw [holdsCommand_command hd, Bool.not_eq_true] at hfree
    exact (holds_congr rfl rfl i).trans hfree

/-! ### The hold rule -/

/-- The hold rule by TVALID and OP (rule R187): where TVALID is NOT GEN_ACTIVE, TGEN's own test agrees. -/
theorem holds_iff_op {s : State} (hv : s.tvalid = !s.genActive) (i : Instr) :
    s.holds i = true ↔ s.tvalid = false ∧
      ((encode i).cmd >>> 24 = 1#32 ∨ (encode i).cmd >>> 24 = 4#32 ∨ (encode i).cmd >>> 24 = 5#32 ∨
        (encode i).cmd >>> 24 = 8#32) := by
  cases i with
  | upd b =>
    have hop : (encode (.upd b)).cmd >>> 24 = 4#32 := or_operand_ushiftRight 0x04000000#32 b (by decide)
    simp [State.holds, hop]
  | updw n d =>
    have hop : (encode (.updw n d)).cmd >>> 24 = 5#32 := or_operand_ushiftRight 0x05000000#32 n (by decide)
    simp [State.holds, hop]
  | rdtab x =>
    have hop : (encode (.rdtab x)).cmd >>> 24 = 8#32 := or_operand_ushiftRight 0x08000000#32 x (by decide)
    simp [State.holds, hop]
  | _ => simp [State.holds, encode, hv]

theorem holdsCommand_iff {s : State} (hv : s.tvalid = !s.genActive) (c : Command) :
    s.holdsCommand c = true ↔ (∃ i, decode c = .command i) ∧ s.tvalid = false ∧
      (c.cmd >>> 24 = 1#32 ∨ c.cmd >>> 24 = 4#32 ∨ c.cmd >>> 24 = 5#32 ∨ c.cmd >>> 24 = 8#32) := by
  cases hd : decode c with
  | illegal cause => simp [holdsCommand_illegal hd]
  | command i =>
    have hcmd : (encode i).cmd = c.cmd := by rw [encode_of_decode hd]
    rw [holdsCommand_command hd, holds_iff_op hv, hcmd]
    simp

/-! ### The engine beside the generator -/

/-- The state with these observed values. -/
def State.withObserved (s : State) (o : Observed) : State :=
  { s with r := o.r, dout := o.dout, err := o.err, ecause := o.ecause }

/-- A generator step neither reads nor writes the observed values and the head. -/
theorem generatorStep_withObserved (s : State) (o : Observed) :
    generatorStep (s.withObserved o).accept = ((generatorStep s).withObserved o).accept :=
  generatorStep_indep s o.r o.dout o.err o.ecause none

/-- An instruction that no state holds does what the pure one does. -/
theorem effect_eq_withObserved {i : Instr} (hnever : ∀ u : State, u.holds i = false) (s : State) :
    s.effect i = s.withObserved (pureInstr i s.observed) := by
  cases i with
  | tgen | upd _ | updw _ _ | rdtab _ => cases (hnever State.reset : true = false)
  | _ => rfl

theorem recordError_eq_withObserved (s : State) {c : Command} {cause : Cause}
    (hd : decode c = .illegal cause) :
    s.recordError cause = s.withObserved (pureCommand s.observed c) := by
  rw [← recordError_accept_observed s hd]
  unfold State.recordError
  split <;> rfl

/-- A command accepted while a generation is active is one that no state holds. -/
theorem never_held_of_active {s : State} (hv : s.tvalid = false) (ha : s.genActive = true) {i : Instr}
    (hfree : s.holds i = false) (u : State) : u.holds i = false := by
  cases i with
  | tgen => cases ha.symm.trans hfree
  | upd _ | updw _ _ | rdtab _ =>
    have hvalid : (!s.tvalid) = false := hfree
    rw [hv] at hvalid
    cases hvalid
  | _ => rfl

/-- A command that no state holds is accepted, and changes the observed values alone. -/
theorem afterEngine_never_held {s : State} {c : Command} (hh : s.head = some c)
    (hnever : ∀ u : State, u.holdsCommand c = false) :
    s.afterEngine = (s.withObserved (pureCommand s.observed c)).accept := by
  cases hd : decode c with
  | illegal cause => rw [afterEngine_illegal hh hd, recordError_eq_withObserved s hd]
  | command i =>
    simp only [holdsCommand_command hd] at hnever
    rw [afterEngine_command hh hd, hnever s, effect_eq_withObserved hnever]
    simp only [pureCommand, hd]
    rfl

/-- A held head is left in place. -/
theorem afterEngine_held {s : State} {c : Command} (hh : s.head = some c) (hheld : s.holdsCommand c = true) :
    s.afterEngine = s := by
  rcases afterEngine_accepts s with ⟨e, _⟩ | ⟨c', hh', hfree, _⟩
  · exact e
  · obtain rfl := Option.some.inj (hh.symm.trans hh')
    cases hheld.symm.trans hfree

/-- A head that is not held is consumed. -/
theorem afterEngine_free_head {s : State} {c : Command} (hh : s.head = some c)
    (hfree : s.holdsCommand c = false) : s.afterEngine.head = none := by
  rcases afterEngine_accepts s with ⟨_, hheld⟩ | ⟨_, _, _, hnone, _⟩
  · cases (hheld c hh).symm.trans hfree
  · exact hnone

theorem holdsCommand_never_held_of_active {s : State} (hv : s.tvalid = false) (ha : s.genActive = true)
    {c : Command} (hfree : s.holdsCommand c = false) (u : State) : u.holdsCommand c = false := by
  cases hd : decode c with
  | illegal cause => exact holdsCommand_illegal hd u
  | command i =>
    rw [holdsCommand_command hd] at hfree ⊢
    exact never_held_of_active hv ha hfree u

/-! ### The obligations -/

/-- Settles O41: the scripted turn is the engine's, and the head is executed by what it decodes to. -/
theorem stepRunsTheHeadCommand : Obligations.StepRunsTheHeadCommand := by
  unfold Obligations.StepRunsTheHeadCommand
  intro s c rest hh hs
  have hstep := step_of_script_engine hh hs
  exact ⟨fun i hd => hstep.trans (execCommand_command hd _),
    fun cause hd => hstep.trans (execCommand_illegal hd _)⟩

/-- Settles O42: the free turn is the engine's unless the head is held, and then the generator's. -/
theorem unscriptedTurnsServeTheHead : Obligations.UnscriptedTurnsServeTheHead := by
  unfold Obligations.UnscriptedTurnsServeTheHead
  intro s c hh hs
  refine ⟨?free, ?illegal, ?held⟩
  case free =>
    intro i hd hfree
    exact (step_unscripted_free hh hs (by rw [holdsCommand_command hd, hfree])).trans
      (execCommand_command hd s)
  case illegal =>
    intro cause hd
    exact (step_unscripted_free hh hs (holdsCommand_illegal hd s)).trans (execCommand_illegal hd s)
  case held =>
    intro i hd hheld ha
    exact step_unscripted_held hh hs (by rw [holdsCommand_command hd, hheld]) ha

/-- Settles O43: the placed command is at the head, the engine has the turn, and nothing holds it. -/
theorem placedInstructionRunsNext : Obligations.PlacedInstructionRunsNext := by
  unfold Obligations.PlacedInstructionRunsNext
  intro s nbits w i hw
  have hd : decode (tableCommand nbits w) = .command i := instr?_eq_some hw
  have hobs := placeCommand_observed s (tableCommand nbits w)
  have hfree : State.holds { s.placeCommand (tableCommand nbits w) with script := s.script } i = false :=
    (holds_congr rfl rfl i).trans (placeCommand_holds hd s)
  refine ⟨{ s.placeCommand (tableCommand nbits w) with script := s.script },
    (step_of_script_engine rfl rfl).trans (execCommand_command hd _), hfree, rfl,
    congrArg Observed.r hobs, congrArg Observed.dout hobs, congrArg Observed.err hobs,
    congrArg Observed.ecause hobs, _, exec_free hfree, rfl⟩

/-- Settles O44: the engine leaves a held head and consumes any other. -/
theorem headIsHeldExactlyByTheHoldRule : Obligations.HeadIsHeldExactlyByTheHoldRule := by
  unfold Obligations.HeadIsHeldExactlyByTheHoldRule
  intro s c hv hh isHeld
  have hiff : s.holdsCommand c = true ↔ isHeld := holdsCommand_iff hv c
  rw [engineStep_eq]
  constructor
  case left => exact fun hheld => by rw [afterEngine_held hh (hiff.mpr hheld)]
  case right =>
    intro hfree
    exact ⟨_, rfl, afterEngine_free_head hh (Bool.eq_false_iff.mpr (mt hiff.mp hfree))⟩

/-- Settles O49: a held head stays in both orders, and another one changes only what the generator neither
reads nor writes. -/
theorem generatorAndEngineStepsCommute : Obligations.GeneratorAndEngineStepsCommute := by
  unfold Obligations.GeneratorAndEngineStepsCommute
  intro s c hs ha hh hsame
  refine ⟨_, _, engineStep_eq s, engineStep_eq (generatorStep s), ?_⟩
  have hh' : (generatorStep s).head = some c := (generatorStep_head s).trans hh
  cases hheld : s.holdsCommand c with
  | true => rw [afterEngine_held hh hheld, afterEngine_held hh' (hsame.trans hheld)]
  | false =>
    have hnever := holdsCommand_never_held_of_active (hs.tvalid_of_active ha) ha hheld
    rw [afterEngine_never_held hh hnever, afterEngine_never_held hh' hnever, generatorStep_withObserved,
      generatorStep_observed]

/-- Settles O54: without a head, a script and a generation the turn is nobody's. -/
theorem idleStatePersists : Obligations.IdleStatePersists := by
  unfold Obligations.IdleStatePersists
  intro s hh hs ha
  have hmove : s.nextMove = (.idle, s.script) := by simp [State.nextMove, State.freeTurn, hs, hh, ha]
  rw [step_eq, hmove]
  rfl

end Sys2Proof.Machine
end

section
/-! SUPPORT. The block cannot stall: a held head waits for the end of the generation, and every stream is
accepted (rule R187, log 20). -/

namespace Sys2Proof.Machine

/-! ### A held head -/

/-- Only while a generation is active is anything held. -/
theorem State.Inv.active_of_held {s : State} (h : s.Inv) {c : Command} (hheld : s.holdsCommand c = true) :
    s.genActive = true := by
  by_contra hidle
  have ha : s.genActive = false := Bool.eq_false_iff.mpr hidle
  have hv : s.tvalid = true := by rw [h.tvalid_eq, ha]; rfl
  cases hheld.symm.trans (holdsCommand_eq_false hv ha c)

/-- While the head is held and the script is empty every turn is the generator's, to the generation's end. -/
theorem State.Generating.runFrom_held {s : State} (h : s.Generating) {c : Command} (hh : s.head = some c)
    (hs : s.script = []) (hheld : s.holdsCommand c = true) :
    runFrom s.stepsToGo s = .next s.afterGeneration := by
  induction hn : s.stepsToGo generalizing s with
  | zero => simp [State.stepsToGo] at hn
  | succ n ih =>
    rw [runFrom_succ_of_step (step_unscripted_held hh (.inl hs) hheld h.active)]
    rcases generatorStep_progress h.active h.gk_le with ⟨hone, _⟩ | ⟨ha, hv, _, hgo⟩
    · obtain rfl : n = 0 := by omega
      obtain ⟨hk, hi⟩ := last_of_stepsToGo hone
      rw [runFrom_zero, h.step_last hk hi]
    · have hheld' : (generatorStep s).holdsCommand c = true :=
        (holdsCommand_congr hv (ha.trans h.active.symm) c).trans hheld
      rw [ih (h.step_generating ha) ((generatorStep_head s).trans hh) ((generatorStep_script s).trans hs)
        hheld' (by omega), generatorStep_afterGeneration]

/-! ### The bound on a stream -/

/-- A bound on the steps until nothing is pending: one for each event to come; for the first pending command
the generation in progress and its own acceptance; for each other one a generation that the command before
it may start, and its acceptance. -/
def State.stepsBound (s : State) : Nat :=
  match s.pending with
  | [] => s.script.length
  | _ :: rest => s.script.length + 2305 * rest.length + s.generationLeft + 1

theorem stepsBound_le (s : State) : s.stepsBound ≤ s.script.length + 2305 * s.pending.length := by
  have hleft := generationLeft_le s
  unfold State.stepsBound
  cases s.pending with
  | nil => exact Nat.le_add_right _ _
  | cons c rest => simp only [List.length_cons]; omega

/-- A move that starts no generation and uses up an event. -/
theorem stepsBound_of_event {s t : State} (hp : t.pending = s.pending)
    (hscript : s.script.length = t.script.length + 1) (hleft : t.generationLeft ≤ s.generationLeft) :
    t.stepsBound < s.stepsBound := by
  unfold State.stepsBound
  rw [hp]
  split <;> omega

/-- A move that brings the generation nearer to its end. -/
theorem stepsBound_of_generator {s t : State} {c : Command} (hh : s.head = some c)
    (hp : t.pending = s.pending) (hscript : t.script = s.script)
    (hleft : t.generationLeft < s.generationLeft) : t.stepsBound < s.stepsBound := by
  have hpending : s.pending = c :: s.script.filterMap Event.presented := by simp [State.pending, hh]
  simp only [State.stepsBound, hp, hpending, hscript]
  omega

/-- A move that accepts a command, whatever generation it starts. -/
theorem stepsBound_of_accept {s t : State} {c : Command} (hp : s.pending = c :: t.pending)
    (hscript : t.script.length ≤ s.script.length) : t.stepsBound < s.stepsBound := by
  have hleft := generationLeft_le t
  unfold State.stepsBound
  rw [hp]
  cases t.pending with
  | nil => simp only [List.length_nil]; omega
  | cons c' rest => simp only [List.length_cons]; omega

/-- In a state that is not quiet the script gives the next move, or there is a head for an unscripted turn. -/
theorem scripted_or_unscripted {s : State} (hquiet : ¬ s.Quiet) :
    s.script.length = s.nextMove.2.length + 1 ∨
    ∃ c, s.head = some c ∧ (s.script = [] ∨ ∃ c' rest, s.script = .present c' :: rest) := by
  cases hs : s.script with
  | nil =>
    cases hh : s.head with
    | none => exact absurd ⟨hh, hs⟩ hquiet
    | some c => exact .inr ⟨c, rfl, .inl rfl⟩
  | cons e rest =>
    cases e with
    | present c' =>
      cases hh : s.head with
      | none => exact .inl (by simp [State.nextMove, hs, hh])
      | some c => exact .inr ⟨c, rfl, .inr ⟨c', rest, rfl⟩⟩
    | _ => exact .inl (by simp [State.nextMove, hs])

theorem step_script {s t : State} (h : step s = .next t) : t.script = s.nextMove.2 := by
  obtain rfl := (step_next_iff s t).mp h
  exact afterMove_script _ _

/-- A scripted move counts against the bound by its event. -/
theorem stepsBound_scripted {s t : State} (hs : s.NoReset)
    (hscripted : s.script.length = s.nextMove.2.length + 1) (h : step s = .next t) :
    t.stepsBound < s.stepsBound := by
  rw [← step_script h] at hscripted
  rcases step_pending h hs.nextMove with ⟨hp, _, hleft⟩ | ⟨_, c, _, hp, _, _⟩
  · exact stepsBound_of_event hp hscripted hleft
  · exact stepsBound_of_accept hp (by omega)

/-- An unscripted move accepts the head, or is a step of the generation the head is held behind. -/
theorem stepsBound_unscripted {s t : State} (hinv : s.Inv) {c : Command} (hh : s.head = some c)
    (hs : s.script = [] ∨ ∃ c' rest, s.script = .present c' :: rest) (h : step s = .next t) :
    t.stepsBound < s.stepsBound := by
  cases hheld : s.holdsCommand c with
  | true =>
    have ha := hinv.active_of_held hheld
    rw [step_unscripted_held hh hs hheld ha] at h
    cases h
    have hnearer := generationLeft_generatorStep s
    have hpos := generationLeft_pos ha
    exact stepsBound_of_generator hh (pending_congr (generatorStep_head s) (by rw [generatorStep_script]))
      (generatorStep_script s) (by omega)
  | false =>
    rw [step_unscripted_free hh hs hheld, ← engineStep_of_head hh, engineStep_eq] at h
    cases h
    have hscript : s.afterEngine.script = s.script := afterMove_script s .engine
    exact stepsBound_of_accept (pending_of_accept hh (afterEngine_free_head hh hheld) (by rw [hscript]))
      (by rw [hscript])

theorem step_stepsBound {s t : State} (hinv : s.Inv) (hs : s.NoReset) (hquiet : ¬ s.Quiet)
    (h : step s = .next t) : t.stepsBound < s.stepsBound := by
  rcases scripted_or_unscripted hquiet with hscripted | ⟨c, hh, hunscripted⟩
  · exact stepsBound_scripted hs hscripted h
  · exact stepsBound_unscripted hinv hh hunscripted h

/-- Within the bound the block falls quiet. -/
theorem runFrom_quiet {n : Nat} {s : State} (hinv : s.Inv) (hs : s.NoReset) (hn : s.stepsBound ≤ n) :
    ∃ k t, k ≤ n ∧ runFrom k s = .next t ∧ t.Quiet := by
  induction n generalizing s with
  | zero =>
    by_cases hquiet : s.Quiet
    · exact ⟨0, s, Nat.le_refl 0, rfl, hquiet⟩
    · have := step_stepsBound hinv hs hquiet (step_eq s)
      omega
  | succ n ih =>
    by_cases hquiet : s.Quiet
    · exact ⟨0, s, Nat.zero_le _, rfl, hquiet⟩
    · have hstep := step_eq s
      have hless := step_stepsBound hinv hs hquiet hstep
      obtain ⟨k, t, hk, hrun, ht⟩ := ih (hinv.step hstep) (hs.step hstep) (by omega)
      exact ⟨k + 1, t, by omega, (runFrom_succ_of_step hstep).trans hrun, ht⟩

/-! ### The obligations -/

/-- Settles O45: the steps are those of the generation, which leaves the table valid and the head free. -/
theorem everyHoldIsLifted : Obligations.EveryHoldIsLifted := by
  unfold Obligations.EveryHoldIsLifted
  intro s c hinv hh hs hheld
  have ha := hinv.active_of_held hheld
  have hle : s.stepsToGo ≤ 2304 := by simpa [State.generationLeft, ha] using generationLeft_le s
  have hfree : s.afterGeneration.holdsCommand c = false := holdsCommand_eq_false rfl rfl c
  exact ⟨s.stepsToGo, s.afterGeneration, Nat.le_add_left 1 _, hle,
    (hinv.generating ha).runFrom_held hh hs hheld, rfl, hh, rfl, hfree,
    step_unscripted_free (s := s.afterGeneration) hh (.inl hs) hfree⟩

/-- Settles O48: every step counts against the bound until nothing is pending. -/
theorem everyStreamIsAccepted : Obligations.EveryStreamIsAccepted := by
  unfold Obligations.EveryStreamIsAccepted
  exact fun s hinv hs => runFrom_quiet hinv hs (stepsBound_le s)

end Sys2Proof.Machine
end

section
/-! SUPPORT. The checksum operations as a host runs them: it presents commands, and reads DOUT when nothing
is pending (rules R140, R141, R144 and R145). -/

namespace Sys2Proof.Machine

/-! ### A host that presents instructions -/

theorem pureCommand_encode (o : Observed) (i : Instr) : pureCommand o (encode i) = pureInstr i o := by
  simp only [pureCommand, decode_encode]

/-- The instructions of a list, one after another, over the pure TABLE. -/
def pureInstrs (cmds : List Instr) (o : Observed) : Observed := cmds.foldl (fun o i => pureInstr i o) o

theorem pureInstrs_append (cmds cmds' : List Instr) (o : Observed) :
    pureInstrs (cmds ++ cmds') o = pureInstrs cmds' (pureInstrs cmds o) :=
  List.foldl_append

theorem noReset_of_presentAll {s : State} {cmds : List Instr} (hs : s.script = presentAll cmds) :
    s.NoReset := by
  intro e he
  rw [hs] at he
  obtain ⟨i, _, rfl⟩ := List.mem_map.mp he
  exact Event.noConfusion

theorem outcome_of_presentAll {s : State} {cmds : List Instr} (hh : s.head = none)
    (hs : s.script = presentAll cmds) : s.outcome = pureInstrs cmds s.observed := by
  have hpending : s.pending = cmds.map encode := by
    simp [State.pending, hh, hs, presentAll, List.filterMap_map, Function.comp_def, Event.presented]
  simp only [State.outcome, hpending, List.foldl_map, pureCommand_encode]
  rfl

/-- Presented instructions are all accepted, and leave what they compute over the pure TABLE. -/
theorem runFrom_presentAll {s : State} {cmds : List Instr} (hinv : s.Inv) (hh : s.head = none)
    (hs : s.script = presentAll cmds) :
    ∃ k t, runFrom k s = .next t ∧ t.Quiet ∧ t.observed = pureInstrs cmds s.observed := by
  have hno := noReset_of_presentAll hs
  obtain ⟨k, t, _, hrun, hquiet⟩ := runFrom_quiet hinv hno (Nat.le_refl _)
  refine ⟨k, t, hrun, hquiet, ?_⟩
  rw [← outcome_of_presentAll hh hs, ← outcome_of_quiet hquiet, runFrom_outcome hinv hno hrun]

/-! ### Feeding -/

theorem pureInstr_feeds {i : Instr} (hi : Instr.feeds i = true) (o : Observed) :
    pureInstr i o = { o with r := crcUpdates o.r (Instr.inputBytes i) } := by
  cases i with
  | upd b => rfl
  | updw n d => rfl
  | _ => cases hi

/-- Any feeding of the bytes is UPDATE* of them (rule R146). -/
theorem pureInstrs_feeds {fed : List Instr} {bytes : List Byte} (hfed : FeedsBytes fed bytes) (o : Observed) :
    pureInstrs fed o = { o with r := crcUpdates o.r bytes } := by
  obtain ⟨hfeeds, rfl⟩ := hfed
  induction fed generalizing o with
  | nil => rfl
  | cons i fed ih =>
    obtain ⟨hi, hrest⟩ := List.forall_mem_cons.mp hfeeds
    have htail := ih (pureInstr i o) hrest
    rw [pureInstr_feeds hi] at htail
    rw [List.flatMap_cons, crcUpdates_append]
    exact (congrArg (pureInstrs fed) (pureInstr_feeds hi o)).trans htail

theorem pureInstrs_crcCompute {fed : List Instr} {bytes : List Byte} (hfed : FeedsBytes fed bytes)
    (o : Observed) : pureInstrs (crcCompute fed) o = { o with
      r := crcUpdates 0xFFFFFFFF#32 bytes, dout := crcFinal (crcUpdates 0xFFFFFFFF#32 bytes) } := by
  have hfeed := pureInstrs_feeds hfed { o with r := 0xFFFFFFFF#32 }
  exact (pureInstrs_append (.init :: fed) [.rdfin] o).trans (congrArg (pureInstr .rdfin) hfeed)

theorem pureInstrs_crcContinue {fed : List Instr} {bytes : List Byte} (hfed : FeedsBytes fed bytes)
    (token : Word) (o : Observed) : pureInstrs (crcContinue fed token) o = { o with
      r := crcUpdates token bytes, dout := crcUpdates token bytes } := by
  have hfeed := pureInstrs_feeds hfed { o with r := token }
  exact (pureInstrs_append (.load token :: fed) [.rdraw] o).trans (congrArg (pureInstr .rdraw) hfeed)

/-! ### The obligations -/

/-- Settles O29: the presented commands are all accepted, and fold to the operation. -/
theorem computeChecksumOnTheBlock : Obligations.ComputeChecksumOnTheBlock := by
  unfold Obligations.ComputeChecksumOnTheBlock
  intro s fed bytes hinv hh hs hfed
  obtain ⟨k, t, hrun, hquiet, hobs⟩ := runFrom_presentAll hinv hh hs
  rw [pureInstrs_crcCompute hfed] at hobs
  exact ⟨k, t, hrun, hquiet, congrArg Observed.r hobs, congrArg Observed.dout hobs⟩

/-- Settles O30: the presented commands are all accepted, and fold to the operation. -/
theorem continueChecksumOnTheBlock : Obligations.ContinueChecksumOnTheBlock := by
  unfold Obligations.ContinueChecksumOnTheBlock
  intro s fed bytes token hinv hh hs hfed
  obtain ⟨k, t, hrun, hquiet, hobs⟩ := runFrom_presentAll hinv hh hs
  rw [pureInstrs_crcContinue hfed] at hobs
  exact ⟨k, t, hrun, hquiet, congrArg Observed.r hobs, congrArg Observed.dout hobs⟩

/-- Settles O31: the two operations on no bytes, and the first on the nine bytes of the check value. -/
theorem emptyInputAndCheckValue : Obligations.EmptyInputAndCheckValue := by
  unfold Obligations.EmptyInputAndCheckValue
  have hnothing : FeedsBytes [] [] := ⟨fun i hi => absurd hi List.not_mem_nil, rfl⟩
  refine ⟨?compute, ?resume, ?check⟩
  case compute =>
    intro s hinv hh hs
    obtain ⟨k, t, hrun, hquiet, _, hdout⟩ := computeChecksumOnTheBlock s [] [] hinv hh hs hnothing
    exact ⟨k, t, hrun, hquiet, hdout.trans (by decide)⟩
  case resume =>
    intro s token hinv hh hs
    obtain ⟨k, t, hrun, hquiet, _, hdout⟩ := continueChecksumOnTheBlock s [] [] token hinv hh hs hnothing
    exact ⟨k, t, hrun, hquiet, hdout⟩
  case check =>
    intro s fed hinv hh hs hfed
    obtain ⟨k, t, hrun, hquiet, _, hdout⟩ := computeChecksumOnTheBlock s fed _ hinv hh hs hfed
    exact ⟨k, t, hrun, hquiet, hdout.trans (by decide +kernel)⟩

end Sys2Proof.Machine
end

section
/-! SUPPORT. The canonical expansion of `feed` into UPDW commands (rule R68). -/

namespace Sys2Proof.Machine

/-! ### Lanes -/

@[simp] theorem lane_packLanes_zero (b0 b1 b2 b3 : Byte) : lane (packLanes b0 b1 b2 b3) 0 = b0 :=
  BitVec.extractLsb'_append_eq_right

@[simp] theorem lane_packLanes_one (b0 b1 b2 b3 : Byte) : lane (packLanes b0 b1 b2 b3) 1 = b1 :=
  (BitVec.extractLsb'_append_eq_of_le (by decide)).trans BitVec.extractLsb'_append_eq_right

@[simp] theorem lane_packLanes_two (b0 b1 b2 b3 : Byte) : lane (packLanes b0 b1 b2 b3) 2 = b2 :=
  (BitVec.extractLsb'_append_eq_of_le (by decide)).trans
    ((BitVec.extractLsb'_append_eq_of_le (by decide)).trans BitVec.extractLsb'_append_eq_right)

@[simp] theorem lane_packLanes_three (b0 b1 b2 b3 : Byte) : lane (packLanes b0 b1 b2 b3) 3 = b3 :=
  (BitVec.extractLsb'_append_eq_of_le (by decide)).trans
    ((BitVec.extractLsb'_append_eq_of_le (by decide)).trans BitVec.extractLsb'_append_eq_left)

/-- DIN has four lanes (rule R43). -/
theorem lane_ge_four (d : Word) {j : Nat} (hj : 4 ≤ j) : lane d j = 0#8 := by
  ext k hk
  simp [lane, BitVec.getLsbD_of_ge d (8 * j + k) (by omega)]

/-- The lanes of a packed word above `n` are 0 when the bytes packed there are. -/
theorem lane_packLanes_eq_zero {b0 b1 b2 b3 : Byte} {n : Nat} (h1 : n < 1 → b1 = 0#8) (h2 : n < 2 → b2 = 0#8)
    (h3 : n < 3 → b3 = 0#8) {j : Nat} (hj : n < j) : lane (packLanes b0 b1 b2 b3) j = 0#8 := by
  match j with
  | 0 => omega
  | 1 => rw [lane_packLanes_one, h1 hj]
  | 2 => rw [lane_packLanes_two, h2 hj]
  | 3 => rw [lane_packLanes_three, h3 hj]
  | j + 4 => exact lane_ge_four _ (by omega)

/-! ### The expansion -/

theorem feed_updw (bytes : List Byte) : ∀ i ∈ feed bytes, ∃ n d, i = .updw n d := by
  induction bytes using feed.induct with
  | case1 b0 b1 b2 b3 rest ih =>
    exact List.forall_mem_cons.mpr ⟨⟨_, _, rfl⟩, ih⟩
  | _ => simp [feed]

theorem feed_inputBytes (bytes : List Byte) : (feed bytes).flatMap Instr.inputBytes = bytes := by
  induction bytes using feed.induct with
  | case1 b0 b1 b2 b3 rest ih =>
    simp [feed, ih, Instr.inputBytes, laneBytes, byteCount, List.range_succ]
  | _ => simp [feed, Instr.inputBytes, laneBytes, byteCount, List.range_succ]

theorem feed_feedsBytes (bytes : List Byte) : FeedsBytes (feed bytes) bytes := by
  refine ⟨fun i hi => ?_, feed_inputBytes bytes⟩
  obtain ⟨n, d, rfl⟩ := feed_updw bytes i hi
  rfl

theorem feed_length (bytes : List Byte) : (feed bytes).length = (bytes.length + 3) / 4 := by
  induction bytes using feed.induct with
  | case1 b0 b1 b2 b3 rest ih =>
    simp only [feed, List.length_cons, ih]
    omega
  | _ => simp [feed]

/-- Every group but the last is full. -/
theorem feed_dropLast (bytes : List Byte) : ∀ i ∈ (feed bytes).dropLast, ∃ d, i = .updw 3#2 d := by
  induction bytes using feed.induct with
  | case1 b0 b1 b2 b3 rest ih =>
    cases hrest : feed rest with
    | nil => simp [feed, hrest]
    | cons i fed =>
      rw [feed, hrest, List.dropLast_cons_cons, ← hrest]
      exact List.forall_mem_cons.mpr ⟨⟨_, rfl⟩, ih⟩
  | _ => simp [feed]

/-- The lanes a group does not use are 0. -/
theorem feed_unusedLanes (bytes : List Byte) :
    ∀ n d, Instr.updw n d ∈ feed bytes → ∀ j : Nat, n.toNat < j → lane d j = 0#8 := by
  induction bytes using feed.induct with
  | case1 b0 b1 b2 b3 rest ih =>
    intro n d hmem j hj
    rcases List.mem_cons.mp hmem with heq | htail
    · cases heq
      exact lane_ge_four _ hj
    · exact ih n d htail j hj
  | case2 b0 b1 b2 =>
    intro n d hmem j hj
    cases List.mem_singleton.mp hmem
    exact lane_packLanes_eq_zero (n := 2) (by omega) (by omega) (fun _ => rfl) hj
  | case3 b0 b1 =>
    intro n d hmem j hj
    cases List.mem_singleton.mp hmem
    exact lane_packLanes_eq_zero (n := 1) (by omega) (fun _ => rfl) (fun _ => rfl) hj
  | case4 b0 =>
    intro n d hmem j hj
    cases List.mem_singleton.mp hmem
    exact lane_packLanes_eq_zero (n := 0) (fun _ => rfl) (fun _ => rfl) (fun _ => rfl) hj
  | case5 => exact fun n d hmem => absurd hmem List.not_mem_nil

/-! ### The obligation -/

/-- Settles O28: by induction on the groups of four. -/
theorem feedExpansionConsumesTheBytes : Obligations.FeedExpansionConsumesTheBytes := by
  unfold Obligations.FeedExpansionConsumesTheBytes
  exact fun bytes => ⟨feed_feedsBytes bytes, feed_length bytes, feed_updw bytes, feed_dropLast bytes,
    feed_unusedLanes bytes⟩

end Sys2Proof.Machine
end
